-- ==== Sys2Proof/Word.lean ====
section
/-! DEFINITION. The words that cross the block's ports, and the names of the six operations.
spec/30_encoding.md R43 (command record), R45 (operations), R51 (word-port transaction). -/

namespace Sys2Proof

abbrev Word32 := BitVec 32
abbrev Word64 := BitVec 64

/-- The six operations, in the order of their opcode numbers (R45). -/
inductive Op where
  | rbits | bern | logi | rade | bern64 | rade64
deriving DecidableEq, Repr

/-- The command record (R43): CW, N_IN and SEED_IN as the host presents them. -/
structure CmdRecord where
  cw     : BitVec 8
  nIn    : Word64
  seedIn : Word64
deriving DecidableEq, Repr

/-- A word-port request (R51): its kind WKIND, and the data a SEED64 carries to the source. -/
structure PortRequest where
  wkind : BitVec 2
  data  : Word64
deriving DecidableEq, Repr

/-- The two formats of the opcode table: CMD on the command port, WPORT on the word port. -/
inductive Encoded where
  | cmd  (r : CmdRecord)
  | port (q : PortRequest)
deriving DecidableEq, Repr

end Sys2Proof
end

