-- ==== Sys2Proof/Config.lean ====
section
/-! DEFINITION. What the spec leaves open: the free values of the model. Neither has a body, so nothing can be proved
of the value it gives. The other parameters of spec/00_scope.md R5 have values and stand where they are used
(Machine/Operands.lean); SLOT_BYTE_ORDER is read by no rule (93_implementation_defined.md U12) and is not modelled;
SEED_DRAW_ON_ZERO_N is false (log 19). -/

namespace Sys2Proof.Config

/-- The half-word `floor(u[k] * 65536)` of draw number `k` of UNIF, where the environment has not fixed that draw
(40_word_sources.md R56, R57; 92_eei_decisions.md D30, D35). DESIGN CHOICE, log 5. Safe. -/
opaque unifDraw : Nat → BitVec 16

/-- What WORD holds after the RESET step number `k` ("x[WORD] <- unspecified", 70_reset_and_hazards.md R107).
DESIGN CHOICE, log 3. Safe. -/
opaque resetWord : Nat → Word64

end Sys2Proof.Config
end

