-- ==== Sys2Proof/Syntax.lean ====
section
/-! DEFINITION. The instructions: one constructor per row of spec/opcode_table.json. -/

namespace Sys2Proof

/-- The six commands (30_encoding.md R45, R55) with the operands they read, and the three word-port transactions (R51).
`n` is the requested count, the signed number that N_IN carries (R47). `seed` is the caller's seed, absent when
SEEDV = 0 (R48). A SEED_IN that the command ignores is no operand (log 13). -/
inductive Instr where
  | rbits  (n : Int)
  | bern   (n : Int)
  | logi   (n : Int)
  | rade   (n : Int)
  | bern64 (n : Int) (seed : Option Word64)
  | rade64 (n : Int) (seed : Option Word64)
  | next32
  | next64
  | seed64 (v : Word64)
deriving DecidableEq, Repr

end Sys2Proof
end

