-- ==== Sys2Proof/WellFormed.lean ====
section
/-! DEFINITION. Which instructions an encoding exists for. -/

namespace Sys2Proof

/-- The count fits N_IN, 64 bits signed (30_encoding.md R43, R47). -/
def countFits (n : Int) : Bool := decide (-(2 ^ 63) ≤ n) && decide (n < 2 ^ 63)

/-- A command is well formed when its count fits N_IN. A word-port transaction always is. -/
def Instr.wf : Instr → Bool
  | .rbits n    => countFits n
  | .bern n     => countFits n
  | .logi n     => countFits n
  | .rade n     => countFits n
  | .bern64 n _ => countFits n
  | .rade64 n _ => countFits n
  | .next32     => true
  | .next64     => true
  | .seed64 _   => true

end Sys2Proof
end

