-- ==== Sys2Proof/Decode.lean ====
section
/-! DEFINITION. Decoding and encoding: the command word and record of spec/30_encoding.md R43 to R48, R52, R53, and the
word-port kinds of R51. -/

namespace Sys2Proof

/-- Why a word is no instruction (R52 for command words, R51 for word-port kinds). -/
inductive DecodeError where
  /-- CW[7:4] is not 0. -/
  | reservedBits
  /-- CW[2:0] is 6 or 7. -/
  | reservedOp
  /-- SEEDV is 1 on a command that takes no seed. -/
  | seedNotTaken
  /-- WKIND is 3. -/
  | reservedKind
deriving DecidableEq, Repr

/-- What decoding answers: an instruction, or the reason why the word is illegal. -/
inductive Decoded where
  | instr (i : Instr)
  | illegal (why : DecodeError)
deriving DecidableEq, Repr

/-- CW[2:0], CW[3] and CW[7:4] (R44). -/
def cwOp (cw : BitVec 8) : BitVec 3 := cw.extractLsb' 0 3
def cwSeedv (cw : BitVec 8) : Bool := cw.getLsbD 3
def cwReserved (cw : BitVec 8) : BitVec 4 := cw.extractLsb' 4 4

/-- The opcode number of an operation (R45). -/
def opCode : Op → BitVec 3
  | .rbits  => 0
  | .bern   => 1
  | .logi   => 2
  | .rade   => 3
  | .bern64 => 4
  | .rade64 => 5

/-- The operation an opcode number selects (R45); 6 and 7 are reserved. -/
def opOfCode (c : BitVec 3) : Option Op :=
  if c = 0 then some .rbits
  else if c = 1 then some .bern
  else if c = 2 then some .logi
  else if c = 3 then some .rade
  else if c = 4 then some .bern64
  else if c = 5 then some .rade64
  else none

/-- Does the operation take a seed (R46, last column but one)? -/
def takesSeed : Op → Bool
  | .bern64 => true
  | .rade64 => true
  | .rbits  => false
  | .bern   => false
  | .logi   => false
  | .rade   => false

/-- The instruction of an operation, a count and a seed (R55); an operation without a seed operand drops it (R53). -/
def Instr.ofCommand (op : Op) (n : Int) (seed : Option Word64) : Instr :=
  match op with
  | .rbits  => .rbits n
  | .bern   => .bern n
  | .logi   => .logi n
  | .rade   => .rade n
  | .bern64 => .bern64 n seed
  | .rade64 => .rade64 n seed

/-- The command record read (R44 to R48, R52): legality first, then n = signed_64(N_IN), and SEED_IN only when SEEDV = 1. -/
def decodeCmd (r : CmdRecord) : Decoded :=
  if cwReserved r.cw ≠ 0 then .illegal .reservedBits
  else
    match opOfCode (cwOp r.cw) with
    | none => .illegal .reservedOp
    | some op =>
      if cwSeedv r.cw && !takesSeed op then .illegal .seedNotTaken
      else .instr (Instr.ofCommand op r.nIn.toInt (if cwSeedv r.cw then some r.seedIn else none))

/-- A word-port request read (R51). -/
def decodePort (q : PortRequest) : Decoded :=
  if q.wkind = 0 then .instr .next32
  else if q.wkind = 1 then .instr .next64
  else if q.wkind = 2 then .instr (.seed64 q.data)
  else .illegal .reservedKind

def decode : Encoded → Decoded
  | .cmd r  => decodeCmd r
  | .port q => decodePort q

/-- The command word of an operation, with SEEDV as given (R44, R45). -/
def cwOf (op : Op) (seedv : Bool) : BitVec 8 := 0#4 ++ BitVec.ofBool seedv ++ opCode op

/-- The record of a command (R55). A SEED_IN that is not read is written 0 (log 13). -/
def encodeCmd (op : Op) (n : Int) (seed : Option Word64) : Encoded :=
  .cmd { cw := cwOf op seed.isSome, nIn := BitVec.ofInt 64 n, seedIn := seed.getD 0 }

/-- The words of an instruction (R44, R45, R51, R55). -/
def encode : Instr → Encoded
  | .rbits n       => encodeCmd .rbits n none
  | .bern n        => encodeCmd .bern n none
  | .logi n        => encodeCmd .logi n none
  | .rade n        => encodeCmd .rade n none
  | .bern64 n seed => encodeCmd .bern64 n seed
  | .rade64 n seed => encodeCmd .rade64 n seed
  | .next32        => .port { wkind := 0, data := 0 }
  | .next64        => .port { wkind := 1, data := 0 }
  | .seed64 v      => .port { wkind := 2, data := v }

/-- A command record as one number: CW in bits 7:0, N_IN in bits 71:8, SEED_IN in bits 135:72 (log 14). -/
def recordOfNat (w : Nat) : CmdRecord :=
  { cw := BitVec.ofNat 8 w, nIn := BitVec.ofNat 64 (w / 2 ^ 8), seedIn := BitVec.ofNat 64 (w / 2 ^ 72) }

/-- A word-port request as one number: WKIND in bits 1:0, the data above it (log 14). -/
def requestOfNat (w : Nat) : PortRequest :=
  { wkind := BitVec.ofNat 2 w, data := BitVec.ofNat 64 (w / 2 ^ 2) }

/-- The words as the opcode table numbers their bits. The table gives a command row 8 bits and a word-port row 2: a width
below one byte is the word port's (log 14). -/
def encodedOfNat (nbits w : Nat) : Encoded :=
  if nbits < 8 then .port (requestOfNat w) else .cmd (recordOfNat w)

/-- The decoder on the opcode table's numbering. -/
def decodeTableWord (nbits w : Nat) : Option Instr :=
  match decode (encodedOfNat nbits w) with
  | .instr i => some i
  | .illegal _ => none

end Sys2Proof
end

