-- ==== Sys2Proof/Machine/State.lean ====
section
/-! DEFINITION. What the machine holds (spec/10_state.md), why a step can stop, and the state after reset. -/

namespace Sys2Proof.Machine

/-- The sequencer's phase (R9). Code 7 is never written and has no name (93_implementation_defined.md U14). -/
inductive Phase where
  | idle | seeddraw | seedload | fetch | emit | done | error
deriving DecidableEq, Repr

/-- The cause of the last error (R19, 60_exceptions.md R93, R95). -/
inductive ErrCode where
  | none | nNegative | nTooLarge | illegalCmd
deriving DecidableEq, Repr

/-- The output port's type tag OTYPE (30_encoding.md R50): 0 integer, 1 boolean. -/
inductive OType where
  | int | bool
deriving DecidableEq, Repr

/-- One output slot: the 32-bit value VAL and its tag (R31, R50). -/
structure Slot where
  val   : Word32
  otype : OType
deriving DecidableEq, Repr

/-- OUT (R25, R29): the slots that have been written, by index, indexes strictly rising. A slot that is not listed has
no value in the model (its contents are unspecified, R25; log 1). -/
abbrev Memory := List (Nat × Slot)

/-- HG, the state of the host's uniform generator (R24): how many draws it has made, and the half-words of the next
draws where the environment has fixed them. Past `script` every draw is a free value (log 5). -/
structure HostGen where
  drawn  : Nat
  script : List (BitVec 16)
deriving DecidableEq, Repr

/-- What answers NEXT32 (40_word_sources.md R64): SRC32 over UNIF, a source that returns one constant word, or one that
returns the listed words and then answers no more (60_exceptions.md R100; log 6). -/
inductive Source32 where
  | unif
  | const (w : Word32)
  | words (ws : List Word32)
deriving DecidableEq, Repr

/-- What answers NEXT64 (R64): SRC64, a constant word, or the listed words (log 6). -/
inductive Source64 where
  | mix
  | const (w : Word64)
  | words (ws : List Word64)
deriving DecidableEq, Repr

/-- The external transaction a step made (42_sequencer.md R74; 20_memory.md R31 to R33). -/
inductive PortEvent where
  | commandRead
  | next32 (w : Word32)
  | next64 (w : Word64)
  | seed64 (v : Word64)
  | slotWrite (i : Word32) (s : Slot)
deriving DecidableEq, Repr

/-- The whole state: the block's registers (R9 to R19), the state of the agents attached to it (R23 to R25), what the
host presents (30_encoding.md R43, 70_reset_and_hazards.md R107), and two fields of the model's own. -/
structure State where
  /-- PHASE, R9. -/
  phase      : Phase
  /-- CFG, R10. -/
  cfg        : BitVec 8
  /-- N, R11. -/
  n          : Word32
  /-- NUM_WORDS, R12. -/
  numWords   : Word32
  /-- WORDS_DRAWN, R13. -/
  wordsDrawn : Word32
  /-- FILLED, R14. -/
  filled     : Word32
  /-- J, R15. -/
  j          : BitVec 6
  /-- WORD, R16. -/
  word       : Word64
  /-- SEED, R17. -/
  seed       : Word64
  /-- SEED_DRAWN, R18. -/
  seedDrawn  : Bool
  /-- ERRCODE, R19. -/
  errcode    : ErrCode
  /-- G64, owned by SRC64, R23. -/
  g64        : Word64
  /-- HG, owned by UNIF, R24. -/
  hg         : HostGen
  /-- The source attached as SRC32, 40_word_sources.md R64. -/
  src32      : Source32
  /-- The source attached as SRC64, 40_word_sources.md R64. -/
  src64      : Source64
  /-- OUT, owned by HOST, R25. -/
  out        : Memory
  /-- The commands the host presents, in order; the head is the record on the command port now (log 9). -/
  cmdPort    : List CmdRecord
  /-- The reset input, one value a step; an empty list is a reset input that stays low (log 10). -/
  resetIn    : List Bool
  /-- How many free values RESET has used (log 3). The model's own. -/
  freeIx     : Nat
  /-- The transaction the last step made, if any (log 16). The model's own. -/
  lastEvent  : Option PortEvent
deriving DecidableEq, Repr

/-- Why the machine stops. The spec's own error is not here: it is the ERROR phase, a next state (60_exceptions.md R97). -/
inductive Fault where
  /-- Raised by `step` alone, in a busy phase whose CFG[2:0] is 6 or 7: no operation is running, and the spec gives no
  step an effect there. No run from reset reaches such a state. Safe (log 12). -/
  | noSuchOperation
deriving DecidableEq, Repr

/-- Why an instruction has no meaning in this model. -/
inductive Refusal where
  /-- Raised by an arm of `exec` whose instruction has no meaning yet. No arm raises it now. Safe. -/
  | notModelled (mnemonic : String)
deriving DecidableEq, Repr

/-- The state after reset (R27, 70_reset_and_hazards.md R107). WORD and G64 are unspecified there and 0 here (logs 2
and 4, unsafe). OUT, HG, the sources and the host's inputs are untouched by reset; what they hold here is logs 1, 5, 6,
9 and 10. -/
def State.reset : State :=
  { phase := .idle, cfg := 0, n := 0, numWords := 0, wordsDrawn := 0, filled := 0, j := 0, word := 0, seed := 0,
    seedDrawn := false, errcode := .none, g64 := 0, hg := { drawn := 0, script := [] }, src32 := .unif,
    src64 := .mix, out := [], cmdPort := [], resetIn := [], freeIx := 0, lastEvent := none }

end Sys2Proof.Machine
end

