-- ==== Sys2Proof/Machine/Operands.lean ====
section
/-! DEFINITION. The functions the steps apply, none of which reads or writes state: the constants of an operation
(spec/30_encoding.md R46), the unpacker and the mappers (41_unpack_and_map.md R65 to R71), the half-words and the mixing
function (40_word_sources.md R57, R58, R61, R62). -/

namespace Sys2Proof.Machine

/-! ### The constants of an operation (R46) -/

/-- The source of sampling words, SRCSEL. -/
inductive SrcSel where
  | src32 | src64
deriving DecidableEq, Repr

/-- The value mapper, MAPSEL. -/
inductive Mapper where
  | bern | rade
deriving DecidableEq, Repr

/-- RAW: the unpacker is bypassed and each word becomes one slot. -/
def isRaw : Op → Bool
  | .rbits  => true
  | .bern   => false
  | .logi   => false
  | .rade   => false
  | .bern64 => false
  | .rade64 => false

/-- W, the usable bits of a word. RBITS has none (its entry is never used); RADE64 has 31, not 63 (C8). -/
def usableBits : Op → Nat
  | .rbits  => 0
  | .bern   => 31
  | .logi   => 31
  | .rade   => 31
  | .bern64 => 63
  | .rade64 => 31

/-- SRCSEL. -/
def srcSel : Op → SrcSel
  | .rbits  => .src32
  | .bern   => .src32
  | .logi   => .src32
  | .rade   => .src32
  | .bern64 => .src64
  | .rade64 => .src64

/-- WB, the width of a word as the source delivers it. -/
def wordWidth (op : Op) : Nat :=
  match srcSel op with
  | .src32 => 32
  | .src64 => 64

/-- MAPSEL; RBITS has none. -/
def mapSel : Op → Option Mapper
  | .rbits  => none
  | .bern   => some .bern
  | .logi   => some .bern
  | .rade   => some .rade
  | .bern64 => some .bern
  | .rade64 => some .rade

/-- OTYPE: LOGI's slots are boolean (R69), all others integer. -/
def otypeOf : Op → OType
  | .rbits  => .int
  | .bern   => .int
  | .logi   => .bool
  | .rade   => .int
  | .bern64 => .int
  | .rade64 => .int

/-! ### The count (R5, R71) -/

/-- N_MAX (R5). -/
def nMax : Int := 2147483647

/-- num_words(n, W) = ceil(n / W) (R71), on numbers, so that the sum does not wrap. -/
def ceilWords (n w : Nat) : Nat := (n + w - 1) / w

/-- last_bits(n, W), the bits taken from the final word when n > 0 (R71). -/
def lastBits (n w : Nat) : Nat := n - (ceilWords n w - 1) * w

/-- The words a command of count n plans to read: n for RBITS, ceil(n / W) otherwise (R12, R75). -/
def plannedWords (op : Op) (n : Nat) : Nat :=
  if isRaw op then n else ceilWords n (usableBits op)

/-! ### The unpacker and the mappers (R65 to R70) -/

/-- bit(w, j) = (w div 2^j) mod 2 (R65). -/
def unpackBit (w j : Nat) : Nat := w / 2 ^ j % 2

/-- MAP_BERN (R67). -/
def mapBern (b : Nat) : Int := b

/-- MAP_RADE (R68). -/
def mapRade (b : Nat) : Int := b * 2 - 1

/-- The value written for a word and a bit position: the mapped bit as a 32-bit two's-complement pattern (R50, R67 to
R69), or the word's low 32 bits for RBITS (R70). -/
def slotValue (op : Op) (word : Word64) (j : Nat) : Word32 :=
  match mapSel op with
  | some .bern => BitVec.ofInt 32 (mapBern (unpackBit word.toNat j))
  | some .rade => BitVec.ofInt 32 (mapRade (unpackBit word.toNat j))
  | none       => word.setWidth 32

/-- The slot EMIT writes: the value and the operation's tag (R50). -/
def slotOf (op : Op) (word : Word64) (j : Nat) : Slot :=
  { val := slotValue op word j, otype := otypeOf op }

/-! ### The word sources' arithmetic -/

/-- h(u) = floor(u * 65536) of the uniform variate u = num / den (R57). -/
def halfWord (num den : Nat) : Nat := num * 65536 / den

/-- The draws of HG that uniform variates num / den stand for (R57, log 5). -/
def scriptOf (us : List (Nat × Nat)) : List (BitVec 16) :=
  us.map fun u => BitVec.ofNat 16 (halfWord u.1 u.2)

/-- The word of two half-words, the first draw's high (R49, R58): high * 65536 + low. -/
def wordOfHalves (high low : BitVec 16) : Word32 := BitVec.ofNat 32 (high.toNat * 65536 + low.toNat)

/-- GAMMA, M1 and M2 (R59). -/
def gamma : Word64 := 0x9e3779b97f4a7c15#64
def mixMul1 : Word64 := 0xbf58476d1ce4e5b9#64
def mixMul2 : Word64 := 0x94d049bb133111eb#64

/-- The mixing function (R62): logical shifts, products modulo 2^64. -/
def mix (z : Word64) : Word64 :=
  let b := (z ^^^ (z >>> 30)) * mixMul1
  let d := (b ^^^ (b >>> 27)) * mixMul2
  d ^^^ (d >>> 31)

end Sys2Proof.Machine
end

