-- ==== Sys2Proof/Machine/Ops.lean ====
section
/-! DEFINITION. The shared operations over OUT, the sources and the block's registers. -/

namespace Sys2Proof.Machine

/-! ### OUT (spec/20_memory.md R29 to R31) -/

/-- What the slot at an index holds; no value where nothing was written (R25, log 1). -/
def Memory.read : Memory → Nat → Option Slot
  | [], _ => none
  | (k, v) :: rest, a => if k = a then some v else Memory.read rest a

/-- `OUT[a] = v` from then on (R31). Keeps the indexes strictly rising. -/
def Memory.write : Memory → Nat → Slot → Memory
  | [], a, v => [(a, v)]
  | (k, w) :: rest, a, v =>
    if a < k then (a, v) :: (k, w) :: rest
    else if a = k then (a, v) :: rest
    else (k, w) :: Memory.write rest a v

/-- The canonical form: strictly rising indexes. An unlisted slot has no value, so no entry repeats what it reads as. -/
abbrev Memory.wf (m : Memory) : Prop := m.Pairwise fun x y => x.1 < y.1

/-- MemWrite(i, 1, v) with its tag (R31). It always completes. -/
def slotWrite (i : Word32) (v : Slot) (s : State) : State :=
  { s with out := s.out.write i.toNat v, lastEvent := some (.slotWrite i v) }

/-! ### The sources (spec/20_memory.md R32, R33; 40_word_sources.md R56 to R64) -/

/-- UNIF.draw (R56), as its half-word (R57, 92_eei_decisions.md D30): the next draw the environment fixed, or a free value. -/
def HostGen.draw (g : HostGen) : BitVec 16 × HostGen :=
  match g.script with
  | h :: rest => (h, { drawn := g.drawn + 1, script := rest })
  | []        => (Config.unifDraw g.drawn, { drawn := g.drawn + 1, script := [] })

/-- The two draws of one NEXT32, the first for the high half (R58, D16). -/
def HostGen.nextWord (g : HostGen) : Word32 × HostGen :=
  (wordOfHalves g.draw.1 g.draw.2.draw.1, g.draw.2.draw.2)

/-- NEXT32 (R58): the word and the state after it, or no answer (R100). Where a test source is attached it answers in
SRC32's place (R64). -/
def next32 (s : State) : Option (Word32 × State) :=
  match s.src32 with
  | .unif            => some (s.hg.nextWord.1, { s with hg := s.hg.nextWord.2, lastEvent := some (.next32 s.hg.nextWord.1) })
  | .const w         => some (w, { s with lastEvent := some (.next32 w) })
  | .words (w :: ws) => some (w, { s with src32 := .words ws, lastEvent := some (.next32 w) })
  | .words []        => none

/-- NEXT64 (R61): G64 is advanced by GAMMA first, and the mixed value is the word. Test sources as in `next32`. -/
def next64 (s : State) : Option (Word64 × State) :=
  match s.src64 with
  | .mix             => some (mix (s.g64 + gamma), { s with g64 := s.g64 + gamma, lastEvent := some (.next64 (mix (s.g64 + gamma))) })
  | .const w         => some (w, { s with lastEvent := some (.next64 w) })
  | .words (w :: ws) => some (w, { s with src64 := .words ws, lastEvent := some (.next64 w) })
  | .words []        => none

/-- SEED64 (R60), SeedWrite (R33): G64 <- v. -/
def seedWrite (v : Word64) (s : State) : State :=
  { s with g64 := v, lastEvent := some (.seed64 v) }

/-- MemRead(S, 1), the word zero-extended to WORD's width (R32, R78). -/
def readWord (src : SrcSel) (s : State) : Option (Word64 × State) :=
  match src with
  | .src32 => (next32 s).map fun a => (a.1.setWidth 64, a.2)
  | .src64 => next64 s

/-! ### The block's registers -/

/-- A turn in which the block makes no transaction: it waits for a command (R106), for a word that does not come (R100,
log 7), or does not read a command presented while it is busy (R75, R112). Everything is kept. -/
def wait (s : State) : State := { s with lastEvent := none }

/-- The first two lines of ACCEPT (42_sequencer.md R75): CFG is latched and the counters are cleared. -/
def latchCommand (cw : BitVec 8) (s : State) : State :=
  { s with cfg := cw, filled := 0, wordsDrawn := 0, j := 0, seedDrawn := false, lastEvent := some .commandRead }

/-- Taking an error (60_exceptions.md R97). There is nothing saved and nothing to return from: ERROR is an accepting
phase, left by the next ACCEPT (R99). -/
def raiseError (code : ErrCode) (s : State) : State :=
  { s with errcode := code, n := 0, numWords := 0, seed := 0, phase := .error }

end Sys2Proof.Machine
end

