-- ==== Sys2Proof/Machine/Flags.lean ====
section
/-! DEFINITION. The status bits, the STATUS packing and the host's register reads (spec/10_state.md R9, R19 to R22). -/

namespace Sys2Proof.Machine

/-- The codes of PHASE (R9) and of ERRCODE (R19). -/
def Phase.code : Phase → BitVec 3
  | .idle     => 0
  | .seeddraw => 1
  | .seedload => 2
  | .fetch    => 3
  | .emit     => 4
  | .done     => 5
  | .error    => 6

def ErrCode.code : ErrCode → BitVec 2
  | .none       => 0
  | .nNegative  => 1
  | .nTooLarge  => 2
  | .illegalCmd => 3

/-- The tag on the output port (R50). -/
def OType.code : OType → BitVec 1
  | .int  => 0
  | .bool => 1

/-- BUSY = PHASE in {1, 2, 3, 4} (R20). -/
def Phase.busy : Phase → Bool
  | .idle     => false
  | .seeddraw => true
  | .seedload => true
  | .fetch    => true
  | .emit     => true
  | .done     => false
  | .error    => false

/-- The phases in which ACCEPT is enabled: IDLE, DONE, ERROR (R74). -/
def Phase.accepting (p : Phase) : Bool := !p.busy

def State.busy (s : State) : Bool := s.phase.busy
def State.doneFlag (s : State) : Bool := decide (s.phase = .done)
def State.errFlag (s : State) : Bool := decide (s.phase = .error)

/-- STATUS (R21). -/
def State.status (s : State) : BitVec 16 :=
  0#7 ++ BitVec.ofBool s.seedDrawn ++ s.errcode.code ++ BitVec.ofBool s.errFlag ++ BitVec.ofBool s.doneFlag ++
    BitVec.ofBool s.busy ++ s.phase.code

/-- What the host gets when it reads a register. -/
inductive RegRead where
  | value (v : Word64)
  /-- The register exists and the spec gives the read no specified result. -/
  | unspecified
  /-- No register has this number. -/
  | noRegister
deriving DecidableEq, Repr

/-- The host's register read path (R22), zero-extended to 64 bits. It has no side effect, so it is no step. Register 7
before a command's first FETCH has no specified result (R16, log 17). -/
def hostRead (number : Nat) (s : State) : RegRead :=
  if number = 0 then .value (s.status.setWidth 64)
  else if number = 1 then .value (s.cfg.setWidth 64)
  else if number = 2 then .value (s.n.setWidth 64)
  else if number = 3 then .value (s.numWords.setWidth 64)
  else if number = 4 then .value (s.wordsDrawn.setWidth 64)
  else if number = 5 then .value (s.filled.setWidth 64)
  else if number = 6 then .value (s.j.setWidth 64)
  else if number = 7 then (if s.wordsDrawn = 0 then .unspecified else .value s.word)
  else if number = 8 then .value s.seed
  else .noRegister

end Sys2Proof.Machine
end

