-- ==== Sys2Proof/Machine/Sequencer.lean ====
section
/-! DEFINITION. The steps of the sequencer (spec/42_sequencer.md R74 to R83) and RESET (70_reset_and_hazards.md R107). -/

namespace Sys2Proof.Machine

/-- Where a validated command goes (R75, R82). With n = 0 it is DONE at once, no default seed drawn
(SEED_DRAW_ON_ZERO_N is false, log 19). -/
def firstPhase (op : Op) (n : Int) (seed : Option Word64) : Phase :=
  if n = 0 then .done
  else if takesSeed op then (if seed.isSome then .seedload else .seeddraw)
  else .fetch

/-- ACCEPT of a legal command (R75): latch, validate n (60_exceptions.md R93, R96), set up. -/
def accept (op : Op) (n : Int) (seed : Option Word64) (s : State) : State :=
  let s1 := latchCommand (cwOf op seed.isSome) s
  if n < 0 then raiseError .nNegative s1
  else if n > nMax then raiseError .nTooLarge s1
  else
    { s1 with
      errcode := .none, n := BitVec.ofInt 32 n, numWords := BitVec.ofNat 32 (plannedWords op n.toNat),
      seed := seed.getD 0, phase := firstPhase op n seed }

/-- ACCEPT of an illegal command word (R75, R52, R95). -/
def acceptIllegal (cw : BitVec 8) (s : State) : State := raiseError .illegalCmd (latchCommand cw s)

/-- SEEDDRAW (R76): one NEXT32 is the seed, zero-extended. -/
def seedDrawStep (s : State) : State :=
  match next32 s with
  | some (w, s1) => { s1 with seed := w.setWidth 64, seedDrawn := true, phase := .seedload }
  | none         => wait s

/-- SEEDLOAD (R77): one SEED64 of SEED. -/
def seedLoadStep (s : State) : State := { seedWrite s.seed s with phase := .fetch }

/-- FETCH (R78): one word of the operation's source. -/
def fetchStep (op : Op) (s : State) : State :=
  match readWord (srcSel op) s with
  | some (w, s1) => { s1 with word := w, wordsDrawn := s1.wordsDrawn + 1, j := 0, phase := .emit }
  | none         => wait s

/-- Where EMIT goes (R79, R80, R82): the test for the last slot comes first. -/
def emitPhase (op : Op) (s : State) : Phase :=
  if s.filled + 1 = s.n then .done
  else if isRaw op then .fetch
  else if s.j.toNat + 1 = usableBits op then .fetch
  else .emit

/-- EMIT (R79; R80 for RBITS, whose J does not move): one slot written at index FILLED. -/
def emitStep (op : Op) (s : State) : State :=
  { slotWrite s.filled (slotOf op s.word s.j.toNat) s with
    filled := s.filled + 1, j := if isRaw op then s.j else s.j + 1, phase := emitPhase op s }

/-- The step of a busy phase (R74). -/
def busyStep (op : Op) (s : State) : State :=
  match s.phase with
  | .seeddraw => seedDrawStep s
  | .seedload => seedLoadStep s
  | .fetch    => fetchStep op s
  | .emit     => emitStep op s
  | .idle     => wait s
  | .done     => wait s
  | .error    => wait s

/-- One step of a command (log 11). In an accepting phase the command is the one presented, and the step is ACCEPT. In a
busy phase, if the operation CFG holds is the command's own (R10: the constants are functions of CFG[2:0]), the step is
the one its phase enables. A command presented while another one runs is not read and has no effect (R75, R112). -/
def commandStep (op : Op) (n : Int) (seed : Option Word64) (s : State) : State :=
  if s.phase.accepting then accept op n seed s
  else if cwOp s.cfg = opCode op then busyStep op s
  else wait s

/-- RESET (R107): no transaction, the block's registers at their reset values, WORD unspecified, the rest untouched. -/
def resetStep (s : State) : State :=
  { s with
    phase := .idle, cfg := 0, n := 0, numWords := 0, wordsDrawn := 0, filled := 0, j := 0, seed := 0,
    seedDrawn := false, errcode := .none, word := Config.resetWord s.freeIx, freeIx := s.freeIx + 1,
    lastEvent := none }

end Sys2Proof.Machine
end

