-- ==== Sys2Proof/Machine/Commands.lean ====
section
/-! DEFINITION. The six commands (spec/43_commands.md R86 to R92): one step of each (log 11). -/

namespace Sys2Proof.Machine

/-- RBITS (R87): n raw words of SRC32, one a slot. -/
def execRbits (n : Int) (s : State) : Host.Outcome State Fault Refusal := .next (commandStep .rbits n none s)

/-- BERN (R88): 31 bits a word of SRC32, as 0/1. -/
def execBern (n : Int) (s : State) : Host.Outcome State Fault Refusal := .next (commandStep .bern n none s)

/-- LOGI (R89): BERN with boolean slots. -/
def execLogi (n : Int) (s : State) : Host.Outcome State Fault Refusal := .next (commandStep .logi n none s)

/-- RADE (R90): 31 bits a word of SRC32, as -1/+1. -/
def execRade (n : Int) (s : State) : Host.Outcome State Fault Refusal := .next (commandStep .rade n none s)

/-- BERN64 (R91): 63 bits a word of SRC64, as 0/1; seed given or drawn. -/
def execBern64 (n : Int) (seed : Option Word64) (s : State) : Host.Outcome State Fault Refusal :=
  .next (commandStep .bern64 n seed s)

/-- RADE64 (R92): 31 bits a word of SRC64, as -1/+1; seed given or drawn. -/
def execRade64 (n : Int) (seed : Option Word64) (s : State) : Host.Outcome State Fault Refusal :=
  .next (commandStep .rade64 n seed s)

end Sys2Proof.Machine
end

