-- ==== Sys2Proof/Machine/WordPort.lean ====
section
/-! DEFINITION. The three word-port transactions as instructions (spec/30_encoding.md R51; 40_word_sources.md R58, R60,
R61): what the source does when it is asked. The word it answers with is the transaction's event. A source that does
not answer leaves everything as it was (60_exceptions.md R100, log 7). -/

namespace Sys2Proof.Machine

/-- NEXT32 (R58). -/
def execNext32 (s : State) : Host.Outcome State Fault Refusal :=
  match next32 s with
  | some (_, s1) => .next s1
  | none         => .next (wait s)

/-- NEXT64 (R61). -/
def execNext64 (s : State) : Host.Outcome State Fault Refusal :=
  match next64 s with
  | some (_, s1) => .next s1
  | none         => .next (wait s)

/-- SEED64 (R60). -/
def execSeed64 (v : Word64) (s : State) : Host.Outcome State Fault Refusal := .next (seedWrite v s)

end Sys2Proof.Machine
end

