-- ==== Sys2Proof/Machine/Dispatch.lean ====
section
/-! DEFINITION. Every instruction's meaning, one arm per constructor. -/

namespace Sys2Proof.Machine

def exec (i : Instr) (s : State) : Host.Outcome State Fault Refusal :=
  match i with
  | .rbits n => Sys2Proof.Machine.execRbits n s
  | .bern n => Sys2Proof.Machine.execBern n s
  | .logi n => Sys2Proof.Machine.execLogi n s
  | .rade n => Sys2Proof.Machine.execRade n s
  | .bern64 n seed => Sys2Proof.Machine.execBern64 n seed s
  | .rade64 n seed => Sys2Proof.Machine.execRade64 n seed s
  | .next32 => Sys2Proof.Machine.execNext32 s
  | .next64 => Sys2Proof.Machine.execNext64 s
  | .seed64 v => Sys2Proof.Machine.execSeed64 v s

end Sys2Proof.Machine
end

