-- ==== Sys2Proof/Machine/Fetch.lean ====
section
/-! DEFINITION. What a turn of the machine runs: the host's inputs are sampled, then the block's one enabled step is
chosen (spec/42_sequencer.md R74). -/

namespace Sys2Proof.Machine

/-- What is to be done in a turn: a state already settled (RESET, waiting, an illegal command word), an instruction to
run, or nothing, because CFG names no operation. -/
inductive Turn where
  | settled (s : State)
  | run (i : Instr) (s : State)
  | noOperation
deriving DecidableEq, Repr

/-- The reset input of this turn is taken off its list (log 10). -/
def sampled (s : State) : State := { s with resetIn := s.resetIn.tail }

/-- Is reset asserted in this turn? -/
def resetNow (s : State) : Bool := s.resetIn.head?.getD false

/-- The command that is running (R10): the operation of CFG[2:0], its count, and its seed when SEEDV was 1. -/
def running (s : State) : Option Instr :=
  (opOfCode (cwOp s.cfg)).map fun op =>
    Instr.ofCommand op s.n.toInt (if cwSeedv s.cfg then some s.seed else none)

/-- The turn of an accepting phase: the record on the port is read once and leaves it (R41, log 9). -/
def acceptTurn (s : State) : Turn :=
  match s.cmdPort with
  | []        => .settled (wait s)
  | r :: rest =>
    match decodeCmd r with
    | .instr i   => .run i { s with cmdPort := rest }
    | .illegal _ => .settled (acceptIllegal r.cw { s with cmdPort := rest })

/-- The turn of a busy phase: the running command goes on, whatever the port shows (R75, R41). -/
def busyTurn (s : State) : Turn :=
  match running s with
  | some i => .run i s
  | none   => .noOperation

/-- RESET is enabled in every phase and comes first when it is asserted (R74, R107, log 10). -/
def turn (s : State) : Turn :=
  if resetNow s then .settled (resetStep (sampled s))
  else if s.phase.accepting then acceptTurn (sampled s)
  else busyTurn (sampled s)

/-- The host's inputs set so that the very next step reads a command record (log 15). -/
def presentNow (r : CmdRecord) (s : State) : State :=
  { s with
    phase := if s.phase.accepting then s.phase else .idle, cmdPort := r :: s.cmdPort,
    resetIn := false :: s.resetIn }

/-- The block set so that the very next step makes a word-port transaction (log 15): a FETCH of RBITS for NEXT32, a
FETCH of BERN64 for NEXT64, a SEEDLOAD of the given seed for SEED64. The reserved kind is never issued (R51). -/
def requestNow (q : PortRequest) (s : State) : State :=
  let s1 := { s with resetIn := false :: s.resetIn }
  if q.wkind = 0 then { s1 with phase := .fetch, cfg := cwOf .rbits false }
  else if q.wkind = 1 then { s1 with phase := .fetch, cfg := cwOf .bern64 true }
  else if q.wkind = 2 then { s1 with phase := .seedload, cfg := cwOf .bern64 true, seed := q.data }
  else s

/-- An encoded instruction placed where the next step takes it from. -/
def placeNow (e : Encoded) (s : State) : State :=
  match e with
  | .cmd r  => presentNow r s
  | .port q => requestNow q s

end Sys2Proof.Machine
end

