-- ==== Sys2Proof/Machine/Step.lean ====
section
/-! DEFINITION. One step of the machine (spec/42_sequencer.md R74), and the state in which the next step runs a given word. -/

namespace Sys2Proof.Machine

def step (s : State) : Host.Outcome State Fault Refusal :=
  match turn s with
  | .settled t   => .next t
  | .run i t     => exec i t
  | .noOperation => .fault .noSuchOperation

def State.withFetchWord (s : State) (nbits w : Nat) : State := placeNow (encodedOfNat nbits w) s

end Sys2Proof.Machine
end

