-- ==== Sys2Proof/Machine/BigStep.lean ====
section
/-! DEFINITION. A command as one function (spec/42_sequencer.md R84, R85; 41_unpack_and_map.md R72). The steps of
Sequencer.lean are the model; this is the closed form that claims compare them with. -/

namespace Sys2Proof.Machine

/-- `words[0] .. words[k-1]`, read in this order (20_memory.md R38), and the state after; no answer if one is missing. -/
def readWords (src : SrcSel) : Nat → State → Option (List Word64 × State)
  | 0, s => some ([], s)
  | k + 1, s =>
    match readWord src s with
    | none => none
    | some (w, s1) =>
      match readWords src k s1 with
      | none => none
      | some (ws, s2) => some (w :: ws, s2)

/-- Is the default seed drawn (R76)? -/
def drawsSeed (op : Op) (seed : Option Word64) : Bool := takesSeed op && seed.isNone

/-- The seed of a command and the state after SEEDDRAW and SEEDLOAD (R76, R77); nothing happens for a 32-bit command. -/
def seedSource (op : Op) (seed : Option Word64) (s : State) : Option (Word64 × State) :=
  if takesSeed op then
    match seed with
    | some v => some (v, seedWrite v s)
    | none   => (next32 s).map fun a => (a.1.setWidth 64, seedWrite (a.1.setWidth 64) a.2)
  else some (0, s)

/-- Slot i of a command's output: bit i mod W of words[i div W], mapped; for RBITS words[i] (R72). -/
def sampleSlot (op : Op) (ws : List Word64) (i : Nat) : Slot :=
  if isRaw op then slotOf op (ws.getD i 0) 0
  else slotOf op (ws.getD (i / usableBits op) 0) (i % usableBits op)

/-- The first k slots written, in rising order (20_memory.md R30). -/
def writeSlots (op : Op) (ws : List Word64) : Nat → Memory → Memory
  | 0, m => m
  | k + 1, m => (writeSlots op ws k m).write k (sampleSlot op ws k)

/-- run(OP, n, seed?, src) (R84) as the state at the end of the run; none if a word request is not answered. A count of 0
or out of range ends in ACCEPT. -/
def runCommand (op : Op) (n : Int) (seed : Option Word64) (s : State) : Option State :=
  if n ≤ 0 then some (accept op n seed s)
  else if n > nMax then some (accept op n seed s)
  else
    (seedSource op seed s).bind fun a =>
      (readWords (srcSel op) (plannedWords op n.toNat) a.2).map fun b =>
        { b.2 with
          phase := .done, cfg := cwOf op seed.isSome, n := BitVec.ofInt 32 n,
          numWords := BitVec.ofNat 32 (plannedWords op n.toNat),
          wordsDrawn := BitVec.ofNat 32 (plannedWords op n.toNat), filled := BitVec.ofInt 32 n,
          j := if isRaw op then 0 else BitVec.ofNat 6 (lastBits n.toNat (usableBits op)),
          word := b.1.getLastD 0, seed := a.1, seedDrawn := drawsSeed op seed, errcode := .none,
          out := writeSlots op b.1 n.toNat s.out,
          lastEvent := some (.slotWrite (BitVec.ofNat 32 (n.toNat - 1)) (sampleSlot op b.1 (n.toNat - 1))) }

/-- The steps of a run from its ACCEPT to DONE or ERROR (R85). -/
def stepCount (op : Op) (n : Int) (seed : Option Word64) : Nat :=
  if n ≤ 0 then 1
  else if n > nMax then 1
  else
    1 + (if drawsSeed op seed then 1 else 0) + (if takesSeed op then 1 else 0) + plannedWords op n.toNat + n.toNat

end Sys2Proof.Machine
end

