-- ==== Sys2Proof/Safety.lean ====
section
/-! DEFINITION. The terms claims are stated in: the word-consumption invariant of spec/10_state.md R26, and what it means
for the output and for the seeded stream. -/

namespace Sys2Proof.Machine

/-- The operation CFG holds (R10). -/
def State.op (s : State) : Option Op := opOfCode (cwOp s.cfg)

/-- R26's table for a running or completed command of operation `op`. -/
def consumption (op : Op) (s : State) : Prop :=
  match s.phase with
  | .seeddraw =>
    takesSeed op = true ∧ cwSeedv s.cfg = false ∧ s.seedDrawn = false ∧ 0 < s.n.toNat ∧ s.filled.toNat = 0 ∧
      s.wordsDrawn.toNat = 0 ∧ s.j.toNat = 0
  | .seedload =>
    takesSeed op = true ∧ s.seedDrawn = !cwSeedv s.cfg ∧ 0 < s.n.toNat ∧ s.filled.toNat = 0 ∧
      s.wordsDrawn.toNat = 0 ∧ s.j.toNat = 0
  | .fetch =>
    s.seedDrawn = (takesSeed op && !cwSeedv s.cfg) ∧ s.filled.toNat < s.n.toNat ∧
      (if isRaw op then s.filled.toNat = s.wordsDrawn.toNat ∧ s.j.toNat = 0
       else s.filled.toNat = s.wordsDrawn.toNat * usableBits op ∧ s.wordsDrawn.toNat < s.numWords.toNat ∧
         s.j.toNat = if s.wordsDrawn.toNat = 0 then 0 else usableBits op)
  | .emit =>
    s.seedDrawn = (takesSeed op && !cwSeedv s.cfg) ∧ s.filled.toNat < s.n.toNat ∧ 1 ≤ s.wordsDrawn.toNat ∧
      s.wordsDrawn.toNat ≤ s.numWords.toNat ∧
      (if isRaw op then s.filled.toNat = s.wordsDrawn.toNat - 1 ∧ s.j.toNat = 0
       else s.j.toNat < usableBits op ∧
         s.filled.toNat = (s.wordsDrawn.toNat - 1) * usableBits op + s.j.toNat)
  | .done =>
    s.filled.toNat = s.n.toNat ∧ s.wordsDrawn.toNat = s.numWords.toNat ∧
      (if s.n.toNat = 0 then s.j.toNat = 0 ∧ s.seedDrawn = false
       else s.seedDrawn = (takesSeed op && !cwSeedv s.cfg) ∧
         (if isRaw op then s.j.toNat = 0
          else s.j.toNat = lastBits s.n.toNat (usableBits op) ∧ 1 ≤ s.j.toNat ∧ s.j.toNat ≤ usableBits op))
  | .idle  => False
  | .error => False

/-- The block's registers at every count of zero (after reset R27, after an error R97). -/
def countersClear (s : State) : Prop :=
  s.n = 0 ∧ s.numWords = 0 ∧ s.wordsDrawn = 0 ∧ s.filled = 0 ∧ s.j = 0 ∧ s.seed = 0 ∧ s.seedDrawn = false

/-- The word-consumption invariant: R26 for a command that was accepted, R27 in IDLE, R97 in ERROR, with the bounds of
R11 and R12. CFG holds a legal command word (R52) whenever a command was accepted. -/
def wordInv (s : State) : Prop :=
  match s.phase with
  | .idle  => countersClear s ∧ s.cfg = 0 ∧ s.errcode = .none
  | .error => countersClear s ∧ s.errcode ≠ .none
  | _ =>
    s.errcode = .none ∧ s.n.toNat ≤ 2147483647 ∧
      ∃ op seedv, (seedv = true → takesSeed op = true) ∧ s.cfg = cwOf op seedv ∧
        s.numWords.toNat = plannedWords op s.n.toNat ∧ consumption op s

/-- The values a command's slots may hold (30_encoding.md R50). -/
def legalSlot (op : Op) (v : Slot) : Prop :=
  v.otype = otypeOf op ∧
    match mapSel op with
    | some .bern => v.val = 0#32 ∨ v.val = 1#32
    | some .rade => v.val = 0xFFFFFFFF#32 ∨ v.val = 1#32
    | none       => True

/-- Slots 0 .. FILLED-1 of OUT have been written, with values of the running or completed command (R26, last
paragraph; R30). -/
def slotsFilled (s : State) : Prop :=
  ∀ op, s.op = some op → ∀ i, i < s.filled.toNat → ∃ v, s.out.read i = some v ∧ legalSlot op v

/-- While a 64-bit command runs on the real SRC64, G64 is the seed plus WORDS_DRAWN increments, and the word held is the
mixed G64 (42_sequencer.md R77, 40_word_sources.md R61). -/
def seedStream (s : State) : Prop :=
  s.src64 = .mix → (s.op.map takesSeed) = some true →
    (s.phase = .fetch ∨ s.phase = .emit → s.g64 = s.seed + BitVec.ofNat 64 s.wordsDrawn.toNat * gamma) ∧
      (s.phase = .emit → s.word = mix s.g64)

/-- A word held in EMIT is below 2^WB (R16, R78). -/
def wordFits (s : State) : Prop :=
  ∀ op, s.op = some op → s.phase = .emit → s.word.toNat < 2 ^ wordWidth op

/-- The UNIF draws a transaction makes: two for a NEXT32 of the real SRC32 (40_word_sources.md R58). -/
def drawsOf (src : Source32) (e : Option PortEvent) : Nat :=
  match src, e with
  | .unif, some (.next32 _) => 2
  | _, _ => 0

/-- The state with every slot passed through `f` and CFG holding another command word: how runs of two operations on one
word stream are compared (43_commands.md R89, R90). -/
def mapEvent (f : Slot → Slot) : Option PortEvent → Option PortEvent
  | some (.slotWrite i v) => some (.slotWrite i (f v))
  | e => e

def retyped (f : Slot → Slot) (cw : BitVec 8) (s : State) : State :=
  { s with cfg := cw, out := s.out.map fun c => (c.1, f c.2), lastEvent := mapEvent f s.lastEvent }

/-- BERN's slot as LOGI writes it: the same value, tagged boolean (R89). -/
def asLogi (v : Slot) : Slot := { v with otype := .bool }

/-- BERN's slot as RADE writes it: twice the value less one (R90). -/
def asRade (v : Slot) : Slot := { v with val := v.val * 2 - 1 }

/-- No transaction of the step touched anything outside the block's registers (60_exceptions.md R98). -/
def outsideUnchanged (s t : State) : Prop :=
  t.hg = s.hg ∧ t.g64 = s.g64 ∧ t.src32 = s.src32 ∧ t.src64 = s.src64 ∧ t.out = s.out

end Sys2Proof.Machine
end

