-- ==== Sys2Proof/Certificates/Slice0/Obligations.lean ====
section
/-! DEFINITION. The statements for the provers. Each docstring names the rule of spec/ it formalises. A free value
(`Config.unifDraw`, `Config.resetWord`) stands in them only as it is, so they hold whatever it is. `cmdPort`, `resetIn`
and `lastEvent` are the model's bookkeeping of the host's inputs and of the step's transaction (logs 9, 10 and 16). -/

open Sys2Proof Sys2Proof.Machine

/-! ### Encoding -/

/-- R45, with the operands read as R47 and R48 say: the eight legal command words, and no other. -/
def Obligations.CommandWordsDecode : Prop :=
  ∀ r : CmdRecord,
    (r.cw = 0x00 → decode (.cmd r) = .instr (.rbits r.nIn.toInt)) ∧
    (r.cw = 0x01 → decode (.cmd r) = .instr (.bern r.nIn.toInt)) ∧
    (r.cw = 0x02 → decode (.cmd r) = .instr (.logi r.nIn.toInt)) ∧
    (r.cw = 0x03 → decode (.cmd r) = .instr (.rade r.nIn.toInt)) ∧
    (r.cw = 0x04 → decode (.cmd r) = .instr (.bern64 r.nIn.toInt none)) ∧
    (r.cw = 0x05 → decode (.cmd r) = .instr (.rade64 r.nIn.toInt none)) ∧
    (r.cw = 0x0C → decode (.cmd r) = .instr (.bern64 r.nIn.toInt (some r.seedIn))) ∧
    (r.cw = 0x0D → decode (.cmd r) = .instr (.rade64 r.nIn.toInt (some r.seedIn))) ∧
    (r.cw ∉ [0x00, 0x01, 0x02, 0x03, 0x04, 0x05, 0x0C, 0x0D] → ∃ why, decode (.cmd r) = .illegal why)

/-- R52: which words are illegal, and that the step that reads one takes the error and does nothing else. -/
def Obligations.IllegalCommandWordTakesError : Prop :=
  ∀ (s : State) (r : CmdRecord) (rest : List CmdRecord),
    ((∃ why, decodeCmd r = .illegal why) ↔
      ((cwOp r.cw = 6 ∨ cwOp r.cw = 7) ∨ cwReserved r.cw ≠ 0 ∨ (cwSeedv r.cw = true ∧ (cwOp r.cw).toNat ≤ 3))) ∧
    ((∃ why, decodeCmd r = .illegal why) → resetNow s = false → s.phase.accepting = true → s.cmdPort = r :: rest →
      step s = .next { s with
        resetIn := s.resetIn.tail, cmdPort := rest, phase := .error, errcode := .illegalCmd, cfg := r.cw,
        n := 0, numWords := 0, wordsDrawn := 0, filled := 0, j := 0, seed := 0, seedDrawn := false,
        lastEvent := some .commandRead })

/-- Every well-formed instruction is read back from its own words, every operand with it (R44 to R48, R51, R55). -/
def Obligations.DecodeOfEncode : Prop :=
  ∀ i : Instr, i.wf = true → decode (encode i) = .instr i

/-- Words that decode are the instruction's own words, but for the data no operand reads (R44 to R48, R51, R53). -/
def Obligations.EncodeOfDecode : Prop :=
  ∀ (e : Encoded) (i : Instr), decode e = .instr i →
    i.wf = true ∧
      match e, encode i with
      | .cmd r, .cmd r' => r'.cw = r.cw ∧ r'.nIn = r.nIn ∧ (cwSeedv r.cw = true → r'.seedIn = r.seedIn)
      | .port q, .port q' => q'.wkind = q.wkind ∧ (q.wkind = 2 → q'.data = q.data)
      | _, _ => False

/-- R51: the word-port kinds, and which step issues each. -/
def Obligations.WordPortKinds : Prop :=
  (∀ d : Word64,
    decode (.port { wkind := 0, data := d }) = .instr .next32 ∧
    decode (.port { wkind := 1, data := d }) = .instr .next64 ∧
    decode (.port { wkind := 2, data := d }) = .instr (.seed64 d) ∧
    ∃ why, decode (.port { wkind := 3, data := d }) = .illegal why) ∧
  ∀ s t : State, step s = .next t →
    (∀ w, t.lastEvent = some (.next32 w) →
      s.phase = .seeddraw ∨ (s.phase = .fetch ∧ s.op.map srcSel = some .src32)) ∧
    (∀ w, t.lastEvent = some (.next64 w) → s.phase = .fetch ∧ s.op.map srcSel = some .src64) ∧
    (∀ v, t.lastEvent = some (.seed64 v) → s.phase = .seedload ∧ v = s.seed)

/-- R46: the constants of the six operations. -/
def Obligations.OperationConstants : Prop :=
  (∀ op, (isRaw op = true ↔ op = .rbits) ∧
    (takesSeed op = true ↔ op = .bern64 ∨ op = .rade64) ∧
    (srcSel op = .src64 ↔ op = .bern64 ∨ op = .rade64) ∧
    (wordWidth op = if op = .bern64 ∨ op = .rade64 then 64 else 32) ∧
    (op ≠ .rbits → usableBits op = if op = .bern64 then 63 else 31) ∧
    (mapSel op = if op = .rbits then none else if op = .rade ∨ op = .rade64 then some .rade else some .bern) ∧
    (otypeOf op = if op = .logi then .bool else .int))

/-! ### How a step runs an instruction -/

/-- A step in an accepting phase is `exec` of the instruction the record on the port decodes to; the record leaves the
port and the turn's reset input is used up (R41, R74; logs 9 and 10 for the two inputs). -/
def Obligations.StepRunsPresentedCommand : Prop :=
  ∀ (s : State) (r : CmdRecord) (rest : List CmdRecord) (i : Instr),
    resetNow s = false → s.phase.accepting = true → s.cmdPort = r :: rest → decode (.cmd r) = .instr i →
      step s = exec i { s with resetIn := s.resetIn.tail, cmdPort := rest }

/-- A step in a busy phase is `exec` of the command CFG holds (R10, R74; log 11). -/
def Obligations.StepRunsLatchedCommand : Prop :=
  ∀ (s : State) (op : Op),
    resetNow s = false → s.phase.accepting = false → s.op = some op →
      step s = exec (Instr.ofCommand op s.n.toInt (if cwSeedv s.cfg then some s.seed else none))
        { s with resetIn := s.resetIn.tail }

/-- The busy steps that use the word port run its transactions: FETCH and SEEDDRAW a NEXT32 or NEXT64 and then latch the
word the transaction carried, SEEDLOAD a SEED64 of SEED (R51, R76 to R78). -/
def Obligations.StepRunsPortTransaction : Prop :=
  ∀ (s u : State) (op : Op), resetNow s = false → s.op = some op →
    (∀ w, s.phase = .seeddraw → exec .next32 { s with resetIn := s.resetIn.tail } = .next u →
      u.lastEvent = some (.next32 w) →
        step s = .next { u with seed := w.setWidth 64, seedDrawn := true, phase := .seedload }) ∧
    (s.phase = .seedload → exec (.seed64 s.seed) { s with resetIn := s.resetIn.tail } = .next u →
        step s = .next { u with phase := .fetch }) ∧
    (∀ w, s.phase = .fetch → srcSel op = .src32 → exec .next32 { s with resetIn := s.resetIn.tail } = .next u →
      u.lastEvent = some (.next32 w) →
        step s = .next { u with word := w.setWidth 64, wordsDrawn := u.wordsDrawn + 1, j := 0, phase := .emit }) ∧
    (∀ w, s.phase = .fetch → srcSel op = .src64 → exec .next64 { s with resetIn := s.resetIn.tail } = .next u →
      u.lastEvent = some (.next64 w) →
        step s = .next { u with word := w, wordsDrawn := u.wordsDrawn + 1, j := 0, phase := .emit })

/-- The host's placement of a command word makes the next step run it (log 15). -/
def Obligations.PlacedCommandRunsNext : Prop :=
  ∀ (s : State) (nbits w : Nat) (i : Instr), 8 ≤ nbits → decodeTableWord nbits w = some i →
    step (s.withFetchWord nbits w) = exec i { s with phase := if s.phase.accepting then s.phase else .idle }

/-- With no command presented the block waits and keeps everything (R74, R106; log 8). -/
def Obligations.WaitingKeepsEverything : Prop :=
  ∀ s : State, resetNow s = false → s.phase.accepting = true → s.cmdPort = [] →
    step s = .next { s with resetIn := s.resetIn.tail, lastEvent := none }

/-! ### ACCEPT and errors -/

/-- R75: ACCEPT of each of the six commands. A legal count is set up; a count out of range and an illegal word raise
their errors; while the block is busy a presented command is not read. -/
def Obligations.AcceptReadsValidatesSetsUp : Prop :=
  (∀ (op : Op) (n : Int) (seed : Option Word64) (s : State),
    (seed.isSome = true → takesSeed op = true) → s.phase.accepting = true →
      (0 ≤ n → n ≤ 2147483647 →
        exec (Instr.ofCommand op n seed) s = .next { s with
          cfg := cwOf op seed.isSome, filled := 0, wordsDrawn := 0, j := 0, seedDrawn := false, errcode := .none,
          n := BitVec.ofInt 32 n,
          numWords := BitVec.ofNat 32 (if isRaw op then n.toNat else (n.toNat + usableBits op - 1) / usableBits op),
          seed := seed.getD 0,
          phase := if n = 0 then .done else if !takesSeed op then .fetch
            else if seed.isSome then .seedload else .seeddraw,
          lastEvent := some .commandRead }) ∧
      (n < 0 ∨ 2147483647 < n →
        exec (Instr.ofCommand op n seed) s = .next { s with
          cfg := cwOf op seed.isSome, filled := 0, wordsDrawn := 0, j := 0, seedDrawn := false,
          errcode := if n < 0 then .nNegative else .nTooLarge, n := 0, numWords := 0, seed := 0, phase := .error,
          lastEvent := some .commandRead })) ∧
  (∀ (s : State) (r : CmdRecord) (rest : List CmdRecord) (why : DecodeError),
    resetNow s = false → s.phase.accepting = true → s.cmdPort = r :: rest → decodeCmd r = .illegal why →
      step s = .next { s with
        resetIn := s.resetIn.tail, cmdPort := rest, cfg := r.cw, filled := 0, wordsDrawn := 0, j := 0,
        seedDrawn := false, errcode := .illegalCmd, n := 0, numWords := 0, seed := 0, phase := .error,
        lastEvent := some .commandRead }) ∧
  (∀ (s t : State) (q : List CmdRecord), s.phase.accepting = false → step s = .next t →
    t.cmdPort = s.cmdPort ∧ step { s with cmdPort := q } = .next { t with cmdPort := q })

/-- R93: the two causes of InvalidArgument, their codes, tested in ACCEPT and nowhere else. -/
def Obligations.InvalidCountIsReported : Prop :=
  (∀ (s t : State) (r : CmdRecord) (rest : List CmdRecord) (i : Instr),
    resetNow s = false → s.phase.accepting = true → s.cmdPort = r :: rest → decodeCmd r = .instr i →
      step s = .next t →
      (r.nIn.toInt < 0 → t.phase = .error ∧ t.errcode.code = 1) ∧
      (2147483647 < r.nIn.toInt → t.phase = .error ∧ t.errcode.code = 2) ∧
      (0 ≤ r.nIn.toInt → r.nIn.toInt ≤ 2147483647 → t.phase ≠ .error ∧ t.errcode.code = 0)) ∧
  (∀ s t : State, s.phase.accepting = false → resetNow s = false → step s = .next t →
    t.errcode = s.errcode ∧ t.phase ≠ .error)

/-- R94 and R97: the whole state after a failed command, the cause in ERRCODE, and what STATUS reads. -/
def Obligations.ErrorEntry : Prop :=
  ∀ (s t : State) (r : CmdRecord) (rest : List CmdRecord),
    resetNow s = false → s.phase.accepting = true → s.cmdPort = r :: rest → step s = .next t → t.phase = .error →
      t = { s with
        resetIn := s.resetIn.tail, cmdPort := rest, phase := .error, errcode := t.errcode, cfg := r.cw, n := 0,
        numWords := 0, wordsDrawn := 0, filled := 0, j := 0, seed := 0, seedDrawn := false,
        lastEvent := some .commandRead } ∧
      (((∃ i, decodeCmd r = .instr i) ∧ r.nIn.toInt < 0 ∧ t.errcode = .nNegative ∧ t.status = 0x0066) ∨
        ((∃ i, decodeCmd r = .instr i) ∧ 2147483647 < r.nIn.toInt ∧ t.errcode = .nTooLarge ∧ t.status = 0x00A6) ∨
        ((∃ why, decodeCmd r = .illegal why) ∧ t.errcode = .illegalCmd ∧ t.status = 0x00E6))

/-- R96: the order of the checks, and that no error arises after ACCEPT. -/
def Obligations.CheckOrder : Prop :=
  (∀ (s t : State) (r : CmdRecord) (rest : List CmdRecord),
    resetNow s = false → s.phase.accepting = true → s.cmdPort = r :: rest → step s = .next t →
      ((∃ why, decodeCmd r = .illegal why) → t.errcode = .illegalCmd) ∧
      ((∃ i, decodeCmd r = .instr i) →
        t.errcode = if r.nIn.toInt < 0 then .nNegative else if 2147483647 < r.nIn.toInt then .nTooLarge else .none)) ∧
  (∀ s t : State, s.phase.accepting = false → step s = .next t → t.phase ≠ .error)

/-- R98: a failed command touches nothing outside the block's registers and makes no transaction but the command read. -/
def Obligations.FailedCommandLeavesNoTrace : Prop :=
  ∀ s t : State, step s = .next t → t.phase = .error →
    outsideUnchanged s t ∧ (t.lastEvent = none ∨ t.lastEvent = some .commandRead)

/-- After a successful ACCEPT no error arises; a source that never answers leaves the block in its phase, busy, for as
long as reset is not asserted; reset ends it (60_exceptions.md section 5). That an unanswered request is a step that
keeps everything, where R100 says that the step is never enabled, is the model's choice, log 7. -/
def Obligations.UnansweredRequestIsStuckNotFaulted : Prop :=
  (∀ s t : State, s.phase.accepting = false → step s = .next t → t.phase ≠ .error) ∧
  (∀ (s : State) (op : Op) (k : Nat), s.op = some op → (∀ b ∈ s.resetIn, b = false) →
    ((s.phase = .seeddraw ∧ s.src32 = .words []) ∨
     (s.phase = .fetch ∧ srcSel op = .src32 ∧ s.src32 = .words []) ∨
     (s.phase = .fetch ∧ srcSel op = .src64 ∧ s.src64 = .words [])) →
      core.run (k + 1) s = .next { s with resetIn := s.resetIn.drop (k + 1), lastEvent := none } ∧ s.busy = true) ∧
  (∀ (s : State) (rest : List Bool), s.resetIn = true :: rest → ∃ t, step s = .next t ∧ t.phase = .idle)

/-- A command with count 0 ends in DONE in its ACCEPT, with no draw, no seed and no slot (R86(e), R75(a)). -/
def Obligations.ZeroCountDrawsNothing : Prop :=
  ∀ (op : Op) (seed : Option Word64) (s : State), (seed.isSome = true → takesSeed op = true) →
    s.phase.accepting = true →
      ∃ t, exec (Instr.ofCommand op 0 seed) s = .next t ∧ t.phase = .done ∧ t.numWords = 0 ∧ t.filled = 0 ∧
        t.seedDrawn = false ∧ t.lastEvent = some .commandRead ∧ outsideUnchanged s t

/-- R8: what ACCEPT leaves does not depend on any register of the block but WORD, which it does not touch, and no step
but EMIT reads WORD. -/
def Obligations.NoStateAcrossCommands : Prop :=
  (∀ (s b : State) (i : Instr) (op : Op) (n : Int) (seed : Option Word64),
    i = Instr.ofCommand op n seed → s.phase.accepting = true → b.phase.accepting = true →
      ∃ t : State, exec i s = .next t ∧
        exec i { s with
          phase := b.phase, cfg := b.cfg, n := b.n, numWords := b.numWords, wordsDrawn := b.wordsDrawn,
          filled := b.filled, j := b.j, word := b.word, seed := b.seed, seedDrawn := b.seedDrawn,
          errcode := b.errcode } = .next { t with word := b.word }) ∧
  (∀ (s t : State) (w : Word64), s.phase ≠ .emit → step s = .next t →
    step { s with word := w } = .next t ∨ step { s with word := w } = .next { t with word := w })

/-! ### The busy steps -/

/-- R76: SEEDDRAW, for both 64-bit commands; it is entered only for one of them without a seed and with n > 0. -/
def Obligations.SeedDrawStepDrawsDefaultSeed : Prop :=
  (∀ (op : Op) (n : Int) (s u : State) (w : Word32),
    takesSeed op = true → s.phase = .seeddraw → cwOp s.cfg = opCode op → exec .next32 s = .next u →
      u.lastEvent = some (.next32 w) →
      exec (Instr.ofCommand op n none) s = .next { s with
        seed := w.setWidth 64, seedDrawn := true, phase := .seedload, hg := u.hg, src32 := u.src32,
        lastEvent := some (.next32 w) } ∧ (w.setWidth 64 : Word64).toNat = w.toNat ∧
        (s.src32 = .unif → u.hg.drawn = s.hg.drawn + 2) ∧ (wordInv s → s.wordsDrawn = 0)) ∧
  (∀ s t : State, step s = .next t → s.phase ≠ .seeddraw → t.phase = .seeddraw →
    ∃ r rest n, s.cmdPort = r :: rest ∧ 0 < n ∧ n ≤ 2147483647 ∧
      (decodeCmd r = .instr (.bern64 n none) ∨ decodeCmd r = .instr (.rade64 n none)))

/-- SEEDLOAD writes SEED to G64, and a 64-bit command reaches FETCH only through it or from its own FETCH and EMIT steps
(42_sequencer.md section 3). -/
def Obligations.SeedLoadStepSeedsSource : Prop :=
  (∀ (op : Op) (n : Int) (seed : Option Word64) (s : State),
    s.phase = .seedload → cwOp s.cfg = opCode op →
      exec (Instr.ofCommand op n seed) s =
        .next { s with g64 := s.seed, phase := .fetch, lastEvent := some (.seed64 s.seed) }) ∧
  (∀ (s t : State), step s = .next t → t.phase = .fetch → t.op.map takesSeed = some true →
    s.phase = .seedload ∨ s.phase = .emit ∨ s.phase = .fetch)

/-- R78: FETCH, for all six commands: one word of the command's source, zero-extended. -/
def Obligations.FetchStepReadsOneWord : Prop :=
  (∀ (op : Op) (n : Int) (seed : Option Word64) (s u : State) (w : Word32),
    s.phase = .fetch → cwOp s.cfg = opCode op → srcSel op = .src32 → exec .next32 s = .next u →
      u.lastEvent = some (.next32 w) →
      exec (Instr.ofCommand op n seed) s = .next { s with
        word := w.setWidth 64, wordsDrawn := s.wordsDrawn + 1, j := 0, phase := .emit, hg := u.hg,
        src32 := u.src32, lastEvent := some (.next32 w) } ∧ (w.setWidth 64 : Word64).toNat = w.toNat) ∧
  (∀ (op : Op) (n : Int) (seed : Option Word64) (s u : State) (w : Word64),
    s.phase = .fetch → cwOp s.cfg = opCode op → srcSel op = .src64 → exec .next64 s = .next u →
      u.lastEvent = some (.next64 w) →
      exec (Instr.ofCommand op n seed) s = .next { s with
        word := w, wordsDrawn := s.wordsDrawn + 1, j := 0, phase := .emit, g64 := u.g64, src64 := u.src64,
        lastEvent := some (.next64 w) }) ∧
  (∀ (s : State) (op : Op), wordInv s → s.phase = .fetch → s.op = some op →
    s.filled.toNat < s.n.toNat ∧ (isRaw op = false → s.filled.toNat = s.wordsDrawn.toNat * usableBits op))

/-- R79: EMIT of the five unpacking commands: bit J of WORD, mapped, to slot FILLED; the last slot is tested first. -/
def Obligations.EmitStepWritesOneBit : Prop :=
  (∀ (op : Op) (n : Int) (seed : Option Word64) (s : State) (v : Word32),
    isRaw op = false → s.phase = .emit → cwOp s.cfg = opCode op →
      (v = if s.word.getLsbD s.j.toNat then 1#32
        else if op = .rade ∨ op = .rade64 then 0xFFFFFFFF#32 else 0#32) →
      exec (Instr.ofCommand op n seed) s = .next { s with
        out := s.out.write s.filled.toNat { val := v, otype := if op = .logi then .bool else .int },
        filled := s.filled + 1, j := s.j + 1,
        phase := if s.filled + 1 = s.n then .done else if s.j.toNat + 1 = usableBits op then .fetch else .emit,
        lastEvent := some (.slotWrite s.filled { val := v, otype := if op = .logi then .bool else .int }) }) ∧
  (∀ (s : State) (op : Op), wordInv s → s.phase = .emit → s.op = some op → isRaw op = false →
    s.j.toNat < usableBits op ∧ s.filled.toNat < s.n.toNat)

/-- R80: EMIT of RBITS: the low 32 bits of WORD to slot FILLED; J does not move. -/
def Obligations.EmitStepWritesRawWord : Prop :=
  ∀ (n : Int) (s : State), s.phase = .emit → cwOp s.cfg = 0 →
    ∃ t, exec (.rbits n) s = .next t ∧
      t = { s with
        out := t.out, filled := s.filled + 1, phase := if s.filled + 1 = s.n then .done else .fetch,
        lastEvent := some (.slotWrite s.filled { val := s.word.extractLsb' 0 32, otype := .int }) } ∧
      t.out.read s.filled.toNat = some { val := s.word.extractLsb' 0 32, otype := .int } ∧
      (∀ a, a ≠ s.filled.toNat → t.out.read a = s.out.read a) ∧ (wordInv s → t.j = 0)

/-- R82: every change of PHASE, and no other. A busy phase that waits for a word keeps its phase (R100). -/
def Obligations.PhaseTransitions : Prop :=
  ∀ s t : State, step s = .next t →
    (resetNow s = true → t.phase = .idle) ∧
    (resetNow s = false → s.phase.accepting = true → s.cmdPort = [] → t.phase = s.phase) ∧
    (∀ r rest, resetNow s = false → s.phase.accepting = true → s.cmdPort = r :: rest →
      ((∃ why, decodeCmd r = .illegal why) ∨ r.nIn.toInt < 0 ∨ 2147483647 < r.nIn.toInt → t.phase = .error) ∧
      (∀ i, decodeCmd r = .instr i → r.nIn.toInt = 0 → t.phase = .done) ∧
      (∀ i, decodeCmd r = .instr i → 0 < r.nIn.toInt → r.nIn.toInt ≤ 2147483647 →
        t.phase = if cwOp r.cw = 4 ∨ cwOp r.cw = 5 then (if cwSeedv r.cw then .seedload else .seeddraw) else .fetch)) ∧
    (resetNow s = false → s.phase = .seeddraw →
      t.phase = if s.src32 = .words [] then .seeddraw else .seedload) ∧
    (resetNow s = false → s.phase = .seedload → t.phase = .fetch) ∧
    (∀ op, resetNow s = false → s.phase = .fetch → s.op = some op →
      t.phase = if (srcSel op = .src32 ∧ s.src32 = .words []) ∨ (srcSel op = .src64 ∧ s.src64 = .words [])
        then .fetch else .emit) ∧
    (∀ op, resetNow s = false → s.phase = .emit → s.op = some op →
      t.phase = if s.filled + 1 = s.n then .done
        else if isRaw op = true ∨ s.j.toNat + 1 = usableBits op then .fetch else .emit)

/-! ### Word consumption -/

/-- R26: the word-consumption invariant is kept by every step; slots below FILLED hold their values, and a step changes
no slot but the one at FILLED, in EMIT. -/
def Obligations.WordConsumptionKept : Prop :=
  ∀ s t : State, wordInv s → slotsFilled s → step s = .next t →
    wordInv t ∧ slotsFilled t ∧
      ∀ a, (s.phase ≠ .emit ∨ a ≠ s.filled.toNat) → t.out.read a = s.out.read a

/-- The invariants hold of the reset state (it lists no slot, so OUT is canonical there). -/
def Obligations.ResetMeetsInvariants : Prop :=
  wordInv State.reset ∧ slotsFilled State.reset ∧ seedStream State.reset ∧ wordFits State.reset ∧
    State.reset.out.wf

/-- OUT keeps its canonical form (log 1). -/
def Obligations.OutputStaysCanonical : Prop :=
  ∀ s t : State, s.out.wf → step s = .next t → t.out.wf

/-- While a 64-bit command runs on SRC64, the stream is that of its seed: G64 is SEED plus WORDS_DRAWN increments, and
the word held is mix of it (R61, R77). -/
def Obligations.SeededStreamKept : Prop :=
  ∀ s t : State, wordInv s → seedStream s → step s = .next t → seedStream t

/-- A word held in EMIT is below 2^WB (R16, R78). -/
def Obligations.HeldWordFitsItsSource : Prop :=
  ∀ s t : State, wordFits s → step s = .next t → wordFits t

/-- R83: a sampling word is read only in FETCH, with a slot unfilled and every usable bit read so far consumed. -/
def Obligations.NoOverRead : Prop :=
  ∀ (s t : State) (op : Op), wordInv s → s.op = some op → step s = .next t →
    (∃ w, t.lastEvent = some (.next32 w) ∧ s.phase ≠ .seeddraw) ∨ (∃ w, t.lastEvent = some (.next64 w)) →
      s.phase = .fetch ∧ s.filled.toNat < s.n.toNat ∧ t.wordsDrawn.toNat = s.wordsDrawn.toNat + 1 ∧
        t.wordsDrawn.toNat ≤ t.numWords.toNat ∧
        s.filled.toNat = s.wordsDrawn.toNat * (if isRaw op then 1 else usableBits op)

/-- R71: the word count is the ceiling, the last word gives 1 to W bits, and the sum does not wrap in 32 unsigned bits. -/
def Obligations.WordCountIsCeiling : Prop :=
  (∀ n W : Nat, 1 ≤ W →
    ceilWords n W = (n + W - 1) / W ∧ lastBits n W = n - (ceilWords n W - 1) * W ∧
    n ≤ ceilWords n W * W ∧ (∀ k, n ≤ k * W → ceilWords n W ≤ k) ∧ (ceilWords n W = 0 ↔ n = 0) ∧
      (0 < n → lastBits n W = (if n % W = 0 then W else n % W) ∧ 1 ≤ lastBits n W ∧ lastBits n W ≤ W)) ∧
  (∀ (n : Word32) (W : Nat), n.toNat ≤ 2147483647 → W = 31 ∨ W = 63 →
    ((n + BitVec.ofNat 32 W - 1) / BitVec.ofNat 32 W).toNat = ceilWords n.toNat W)

/-! ### Outputs -/

/-- R66: bits at and above W of the held word do not reach the output. -/
def Obligations.UnusedBitsDoNotMatter : Prop :=
  (usableBits .bern = 31 ∧ usableBits .logi = 31 ∧ usableBits .rade = 31 ∧ usableBits .bern64 = 63 ∧
    usableBits .rade64 = 31) ∧
  ∀ (op : Op) (n : Int) (seed : Option Word64) (s t : State) (w : Word64),
    isRaw op = false → wordInv s → s.phase = .emit → s.op = some op →
      (∀ k, k < usableBits op → w.getLsbD k = s.word.getLsbD k) →
      exec (Instr.ofCommand op n seed) s = .next t →
        exec (Instr.ofCommand op n seed) { s with word := w } = .next { t with word := w }

/-- R50: the values and tags each command's slots can hold, as patterns and as signed numbers. -/
def Obligations.OutputValues : Prop :=
  ∀ (op : Op) (n : Int) (seed : Option Word64) (s : State), s.phase = .emit → cwOp s.cfg = opCode op →
    ∃ t v, exec (Instr.ofCommand op n seed) s = .next t ∧ t.out.read s.filled.toNat = some v ∧
      (v.otype = if op = .logi then .bool else .int) ∧
      (op = .bern ∨ op = .logi ∨ op = .bern64 →
        (v.val = 0x00000000 ∧ v.val.toInt = 0) ∨ (v.val = 0x00000001 ∧ v.val.toInt = 1)) ∧
      (op = .rade ∨ op = .rade64 →
        (v.val = 0xFFFFFFFF ∧ v.val.toInt = -1) ∨ (v.val = 0x00000001 ∧ v.val.toInt = 1)) ∧
      (op = .rbits → v.val.toNat = s.word.toNat % 2 ^ 32)

/-- LOGI takes BERN's steps on BERN's words; only the tag differs (R89). -/
def Obligations.LogiIsBernRetyped : Prop :=
  ∀ (n : Int) (s t : State), s.phase.accepting = true ∨ s.cfg = cwOf .bern false → exec (.bern n) s = .next t →
    exec (.logi n) (retyped asLogi (cwOf .logi false) s) = .next (retyped asLogi (cwOf .logi false) t)

/-- On the same words RADE's slots are twice BERN's less one (R90). -/
def Obligations.RadeIsTwiceBernLessOne : Prop :=
  ∀ (n : Int) (s t : State), s.phase.accepting = true ∨ s.cfg = cwOf .bern false → exec (.bern n) s = .next t →
    exec (.rade n) (retyped asRade (cwOf .rade false) s) = .next (retyped asRade (cwOf .rade false) t)

/-- The bits of a 32-bit word come from its second draw first (R34, R49): bit j of the low half for j < 16, of the high
half after. -/
def Obligations.LowHalfIsUnpackedFirst : Prop :=
  ∀ (high low : BitVec 16) (n : Int) (s : State), s.phase = .emit → s.cfg = cwOf .bern false → s.j.toNat < 31 →
    s.word = (wordOfHalves high low).setWidth 64 →
      ∃ t v, exec (.bern n) s = .next t ∧ t.out.read s.filled.toNat = some v ∧
        v.val = BitVec.ofNat 32
          (if s.j.toNat < 16 then low.toNat / 2 ^ s.j.toNat % 2 else high.toNat / 2 ^ (s.j.toNat - 16) % 2)

/-- R31: EMIT's slot write always completes; it is at FILLED, and it holds from then on: nothing else in OUT changes, and
nothing but a slot write changes OUT. -/
def Obligations.SlotWriteHolds : Prop :=
  (∀ (s : State) (op : Op), resetNow s = false → s.phase = .emit → s.op = some op →
    ∃ t v, step s = .next t ∧ t.lastEvent = some (.slotWrite s.filled v) ∧ v.otype = otypeOf op) ∧
  ∀ s t : State, step s = .next t →
    (∀ i v, t.lastEvent = some (.slotWrite i v) →
      s.phase = .emit ∧ i = s.filled ∧ t.out.read i.toNat = some v ∧
        ∀ a, a ≠ i.toNat → t.out.read a = s.out.read a) ∧
    ((∀ i v, t.lastEvent ≠ some (.slotWrite i v)) → t.out = s.out)

/-! ### The word sources -/

/-- R58: NEXT32 of SRC32: two draws, the first for the high half, and nothing else changes. -/
def Obligations.Next32MakesTwoDraws : Prop :=
  (∀ s : State, s.src32 = .unif →
    ∃ w, exec .next32 s = .next { s with hg := s.hg.draw.2.draw.2, lastEvent := some (.next32 w) } ∧
      w.toNat = s.hg.draw.1.toNat * 65536 + s.hg.draw.2.draw.1.toNat ∧
      w.extractLsb' 16 16 = s.hg.draw.1 ∧ w.extractLsb' 0 16 = s.hg.draw.2.draw.1 ∧
      s.hg.draw.2.draw.2.drawn = s.hg.drawn + 2) ∧
  (∀ (d : Nat) (h1 h2 : BitVec 16) (rest : List (BitVec 16)),
    (HostGen.mk d (h1 :: h2 :: rest)).draw.1 = h1 ∧ (HostGen.mk d (h1 :: h2 :: rest)).draw.2.draw.1 = h2 ∧
      (HostGen.mk d (h1 :: h2 :: rest)).draw.2.draw.2 = { drawn := d + 2, script := rest })

/-- R60: SEED64 writes G64, any value, and what G64 held before does not matter. -/
def Obligations.Seed64WritesCounter : Prop :=
  ∀ (v g : Word64) (s : State),
    exec (.seed64 v) s = .next { s with g64 := v, lastEvent := some (.seed64 v) } ∧
      exec (.seed64 v) { s with g64 := g } = exec (.seed64 v) s

/-- R61: NEXT64 of SRC64, and the k-th word after seeding. -/
def Obligations.Next64AdvancesAndMixes : Prop :=
  (∀ s : State, s.src64 = .mix →
    exec .next64 s = .next { s with
      g64 := s.g64 + 0x9e3779b97f4a7c15, lastEvent := some (.next64 (mix (s.g64 + 0x9e3779b97f4a7c15))) }) ∧
  (∀ (s : State) (v : Word64) (k : Nat), s.src64 = .mix →
    ∃ t, readWords .src64 k (seedWrite v s) =
        some ((List.range k).map fun i => mix (v + BitVec.ofNat 64 (i + 1) * 0x9e3779b97f4a7c15), t) ∧
      t.g64 = v + BitVec.ofNat 64 k * 0x9e3779b97f4a7c15)

/-- R62: mix on numbers: shifts are divisions, products are taken modulo 2^64. -/
def Obligations.MixOnNumbers : Prop :=
  (∀ z : Word64,
    let a := z.toNat ^^^ (z.toNat / 2 ^ 30)
    let b := a * 13787848793156543929 % 2 ^ 64
    let c := b ^^^ (b / 2 ^ 27)
    let d := c * 10723151780598845931 % 2 ^ 64
    (mix z).toNat = d ^^^ (d / 2 ^ 31)) ∧
  mix 0x9e3779b97f4a7c15 = 0xe220a8397b1dcdaf

/-- A substituted source answers with its own words and leaves HG and G64 alone (R64; log 6). -/
def Obligations.TestSourcesAnswer : Prop :=
  (∀ (s : State) (w : Word32), s.src32 = .const w → exec .next32 s = .next { s with lastEvent := some (.next32 w) }) ∧
  (∀ (s : State) (w : Word32) (ws : List Word32), s.src32 = .words (w :: ws) →
    exec .next32 s = .next { s with src32 := .words ws, lastEvent := some (.next32 w) }) ∧
  (∀ (s : State) (w : Word64), s.src64 = .const w → exec .next64 s = .next { s with lastEvent := some (.next64 w) }) ∧
  (∀ (s : State) (w : Word64) (ws : List Word64), s.src64 = .words (w :: ws) →
    exec .next64 s = .next { s with src64 := .words ws, lastEvent := some (.next64 w) })

/-- Only a NEXT32 of SRC32 draws from UNIF, and it draws twice (R24, R58, R85). -/
def Obligations.DrawsAreCounted : Prop :=
  ∀ s t : State, step s = .next t → t.hg.drawn = s.hg.drawn + drawsOf s.src32 t.lastEvent

/-- h(u) = floor(u * 65536) of a variate u = num / den in [0, 1) is a 16-bit value (R57, for rational u: log 5). -/
def Obligations.HalfWordIsFloor : Prop :=
  ∀ num den : Nat, num < den →
    halfWord num den ≤ 65535 ∧ halfWord num den * den ≤ num * 65536 ∧ num * 65536 < (halfWord num den + 1) * den

/-- A 64-bit command with a seed neither reads nor advances UNIF (R63). -/
def Obligations.SeededCommandIgnoresHostGenerator : Prop :=
  ∀ (s t : State) (g : HostGen) (src : Source32) (op : Op), takesSeed op = true → s.cfg = cwOf op true → wordInv s →
    s.phase.accepting = false → step s = .next t →
      t.hg = s.hg ∧ t.src32 = s.src32 ∧
        step { s with hg := g, src32 := src } = .next { t with hg := g, src32 := src }

/-! ### Status, register reads, reset -/

/-- R20: exactly one of IDLE, BUSY, DONE, ERR holds, each a function of PHASE. -/
def Obligations.OneStatusAtATime : Prop :=
  ∀ s : State,
    (s.busy = true ↔ s.phase.code.toNat ∈ [1, 2, 3, 4]) ∧ (s.doneFlag = true ↔ s.phase.code = 5) ∧
    (s.errFlag = true ↔ s.phase.code = 6) ∧
    (decide (s.phase = .idle)).toNat + s.busy.toNat + s.doneFlag.toNat + s.errFlag.toNat = 1

/-- R21: the fields of STATUS. -/
def Obligations.StatusPacking : Prop :=
  ∀ s : State,
    s.status.extractLsb' 0 3 = s.phase.code ∧ s.status.getLsbD 3 = s.busy ∧ s.status.getLsbD 4 = s.doneFlag ∧
    s.status.getLsbD 5 = s.errFlag ∧ s.status.extractLsb' 6 2 = s.errcode.code ∧
    s.status.getLsbD 8 = s.seedDrawn ∧ s.status.extractLsb' 9 7 = 0

/-- The host's register numbers (R22). Register 7 before a command's first FETCH has no specified result, the model's
choice on R16's advice (log 17). -/
def Obligations.HostReadsByNumber : Prop :=
  ∀ s : State,
    hostRead 0 s = .value (s.status.setWidth 64) ∧ hostRead 1 s = .value (s.cfg.setWidth 64) ∧
    hostRead 2 s = .value (s.n.setWidth 64) ∧ hostRead 3 s = .value (s.numWords.setWidth 64) ∧
    hostRead 4 s = .value (s.wordsDrawn.setWidth 64) ∧ hostRead 5 s = .value (s.filled.setWidth 64) ∧
    hostRead 6 s = .value (s.j.setWidth 64) ∧
    hostRead 7 s = (if s.wordsDrawn = 0 then .unspecified else .value s.word) ∧ hostRead 8 s = .value s.seed ∧
    ∀ k, 8 < k → hostRead k s = .noRegister

/-- R107 and R108: RESET in any phase. It makes no transaction; OUT, G64, HG and the attached sources are unchanged; WORD
is not said (it is a free value); no other step leaves a busy phase for IDLE. -/
def Obligations.ResetFromAnyPhase : Prop :=
  (∀ (s : State) (rest : List Bool), s.resetIn = true :: rest →
    ∃ t, step s = .next t ∧
      t = { s with
        resetIn := rest, phase := .idle, cfg := 0, n := 0, numWords := 0, wordsDrawn := 0, filled := 0, j := 0,
        seed := 0, seedDrawn := false, errcode := .none, word := t.word, freeIx := t.freeIx, lastEvent := none } ∧
      t.status = 0x0000) ∧
  (∀ s t : State, resetNow s = false → s.phase.accepting = false → step s = .next t → t.phase ≠ .idle)

/-- R27: the values the spec gives for reset, in the first state and after a RESET step; WORD and G64 are unspecified,
and HG, G64 and OUT are what they were before the RESET step. -/
def Obligations.ResetValues : Prop :=
  (∀ (s : State) (rest : List Bool), s.resetIn = true :: rest →
    ∃ t, step s = .next t ∧ t.phase = .idle ∧ t.cfg = 0 ∧ t.n = 0 ∧ t.numWords = 0 ∧ t.wordsDrawn = 0 ∧ t.filled = 0 ∧
      t.j = 0 ∧ t.seed = 0 ∧ t.seedDrawn = false ∧ t.errcode.code = 0 ∧ t.status = 0x0000 ∧ t.busy = false ∧
      t.doneFlag = false ∧ t.errFlag = false ∧ t.g64 = s.g64 ∧ t.hg = s.hg ∧ t.out = s.out) ∧
  State.reset.phase = .idle ∧ State.reset.cfg = 0 ∧ State.reset.n = 0 ∧ State.reset.numWords = 0 ∧
  State.reset.wordsDrawn = 0 ∧ State.reset.filled = 0 ∧ State.reset.j = 0 ∧ State.reset.seed = 0 ∧
  State.reset.seedDrawn = false ∧ State.reset.errcode.code = 0 ∧ State.reset.status = 0x0000 ∧
  State.reset.busy = false ∧ State.reset.doneFlag = false ∧ State.reset.errFlag = false

/-- R112: a command presented while BUSY is not accepted and not queued: the port keeps it, and the step is the same
whatever the port shows. -/
def Obligations.BusyIgnoresCommandPort : Prop :=
  ∀ (s t : State) (q : List CmdRecord), s.busy = true → step s = .next t →
    t.cmdPort = s.cmdPort ∧ step { s with cmdPort := q } = .next { t with cmdPort := q }

/-! ### Frames -/

/-- What a step of RBITS, BERN, LOGI, RADE, BERN64 or RADE64 leaves unchanged, by what the step is: ACCEPT in an
accepting phase, the busy phase's own step otherwise (R75 to R80). -/
def Obligations.CommandFrame : Prop :=
  ∀ (op : Op) (n : Int) (seed : Option Word64) (s t : State), exec (Instr.ofCommand op n seed) s = .next t →
    t.cmdPort = s.cmdPort ∧ t.resetIn = s.resetIn ∧ t.freeIx = s.freeIx ∧
    (s.phase.accepting = false →
      t.cfg = s.cfg ∧ t.n = s.n ∧ t.numWords = s.numWords ∧ t.errcode = s.errcode) ∧
    (s.phase ≠ .fetch → t.word = s.word ∧ t.g64 = (if s.phase = .seedload ∧ cwOp s.cfg = opCode op then s.seed else s.g64) ∧
      t.src64 = s.src64) ∧
    (s.phase.accepting = false → s.phase ≠ .fetch → t.wordsDrawn = s.wordsDrawn) ∧
    (s.phase.accepting = false → s.phase ≠ .emit → t.filled = s.filled) ∧
    (s.phase.accepting = false → s.phase ≠ .fetch → s.phase ≠ .emit → t.j = s.j) ∧
    (s.phase.accepting = false → s.phase ≠ .seeddraw → t.seed = s.seed ∧ t.seedDrawn = s.seedDrawn) ∧
    (s.phase ≠ .seeddraw → s.phase ≠ .fetch → t.hg = s.hg ∧ t.src32 = s.src32) ∧
    (s.phase = .fetch → srcSel op = .src32 → t.g64 = s.g64 ∧ t.src64 = s.src64) ∧
    (s.phase = .fetch → srcSel op = .src64 → t.hg = s.hg ∧ t.src32 = s.src32) ∧
    (∀ a, (s.phase ≠ .emit ∨ a ≠ s.filled.toNat) → t.out.read a = s.out.read a)

/-- What NEXT32, NEXT64 and SEED64 leave unchanged: every register of the block, OUT and the host's inputs; each touches
its own source alone (R58, R60, R61). -/
def Obligations.PortTransactionFrame : Prop :=
  ∀ (i : Instr) (s t : State), (i = .next32 ∨ i = .next64 ∨ ∃ v, i = .seed64 v) → exec i s = .next t →
    t = { s with
      hg := t.hg, src32 := t.src32, g64 := t.g64, src64 := t.src64, lastEvent := t.lastEvent } ∧
    (∀ a, t.out.read a = s.out.read a) ∧
    (i = .next32 → t.g64 = s.g64 ∧ t.src64 = s.src64) ∧
    (i ≠ .next32 → t.hg = s.hg ∧ t.src32 = s.src32) ∧
    (i ≠ .next64 → t.src64 = s.src64)

/-! ### A whole command -/

/-- R84: run from its ACCEPT, a command takes the steps R85 counts and ends in the state the function gives, for every
source that answers and for every legal command word and count; an illegal one has no effect but the error status. -/
def Obligations.RunEqualsFunction : Prop :=
  (∀ (s : State) (r : CmdRecord) (rest : List CmdRecord) (why : DecodeError),
    s.phase.accepting = true → s.cmdPort = r :: rest → resetNow s = false → decodeCmd r = .illegal why →
      ∃ t, step s = .next t ∧ t.phase = .error ∧ t.errcode = .illegalCmd ∧ outsideUnchanged s t) ∧
  ∀ (s t : State) (r : CmdRecord) (rest : List CmdRecord) (op : Op) (n : Int) (seed : Option Word64),
    s.phase.accepting = true → s.cmdPort = r :: rest → decodeCmd r = .instr (Instr.ofCommand op n seed) →
    (seed.isSome = true → takesSeed op = true) → (∀ b ∈ s.resetIn, b = false) → runCommand op n seed s = some t →
      core.run (stepCount op n seed) s =
        .next { t with cmdPort := rest, resetIn := s.resetIn.drop (stepCount op n seed) }

/-- R72: what a command leaves: slot i is bit i mod W of words[i div W], mapped (for RBITS words[i]); no other slot
changes; num_words sampling words are read. `ws` is the sequence of words the command's source answers with, after the
seed of a 64-bit command was drawn and written. -/
def Obligations.CommandGivesSamples : Prop :=
  ∀ (s s1 s2 : State) (r : CmdRecord) (rest : List CmdRecord) (op : Op) (n : Int) (seed : Option Word64) (v : Word64)
    (ws : List Word64),
    0 ≤ n → n ≤ 2147483647 → s.phase.accepting = true → s.cmdPort = r :: rest →
    decodeCmd r = .instr (Instr.ofCommand op n seed) → (seed.isSome = true → takesSeed op = true) →
    (∀ b ∈ s.resetIn, b = false) → seedSource op seed s = some (v, s1) →
    readWords (srcSel op) (if isRaw op then n.toNat else (n.toNat + usableBits op - 1) / usableBits op) s1 =
      some (ws, s2) →
      ∃ t : State, core.run (stepCount op n seed) s = .next t ∧ t.phase = .done ∧ t.filled.toNat = n.toNat ∧
        t.wordsDrawn.toNat = (if isRaw op then n.toNat else (n.toNat + usableBits op - 1) / usableBits op) ∧
        ws.length = t.wordsDrawn.toNat ∧
        (∀ i : Nat, i < n.toNat → isRaw op = false → ∃ w, ws[i / usableBits op]? = some w ∧
          t.out.read i = some {
            val := if w.getLsbD (i % usableBits op) then 1#32
              else if mapSel op = some .rade then 0xFFFFFFFF#32 else 0#32,
            otype := otypeOf op }) ∧
        (∀ i : Nat, i < n.toNat → isRaw op = true → ∃ w, ws[i]? = some w ∧
          t.out.read i = some { val := w.setWidth 32, otype := .int }) ∧
        (∀ i : Nat, n.toNat ≤ i → t.out.read i = s.out.read i)

/-! ### The model's own framing of exec -/

/-- In a busy phase exec of a command other than the one CFG holds has no effect. That exec of a command is one step of it,
and what it does where another command runs, is the model's choice, log 11. -/
def Obligations.OtherCommandHasNoEffectWhileBusy : Prop :=
  ∀ (op : Op) (n : Int) (seed : Option Word64) (s : State),
    s.phase.accepting = false → cwOp s.cfg ≠ opCode op →
      exec (Instr.ofCommand op n seed) s = .next { s with lastEvent := none }
end

