-- ==== Sys2Proof/Laws/Decode.lean ====
section
/-! SUPPORT. The fields of a command word. -/

namespace Sys2Proof

@[simp] theorem cwOp_cwOf (op : Op) (v : Bool) : cwOp (cwOf op v) = opCode op := by
  cases op <;> cases v <;> decide

@[simp] theorem cwSeedv_cwOf (op : Op) (v : Bool) : cwSeedv (cwOf op v) = v := by
  cases op <;> cases v <;> decide

@[simp] theorem cwReserved_cwOf (op : Op) (v : Bool) : cwReserved (cwOf op v) = 0 := by
  cases op <;> cases v <;> decide

@[simp] theorem opOfCode_opCode (op : Op) : opOfCode (opCode op) = some op := by
  cases op <;> decide

theorem opCode_of_opOfCode {c : BitVec 3} {op : Op} (h : opOfCode c = some op) : c = opCode op := by
  revert c op
  decide

/-- A legal command word decodes to its operation, with the record's count and, when SEEDV is 1, its seed. -/
theorem decodeCmd_cwOf {op : Op} {v : Bool} (n seed : Word64) (h : v = true → takesSeed op = true) :
    decodeCmd { cw := cwOf op v, nIn := n, seedIn := seed } =
      .instr (Instr.ofCommand op n.toInt (if v then some seed else none)) := by
  simp only [decodeCmd, cwReserved_cwOf, cwOp_cwOf, cwSeedv_cwOf, opOfCode_opCode]
  cases v with
  | false => simp
  | true => simp [h rfl]

/-- A record that decodes is a legal operation's, and the instruction carries what the record says. -/
theorem decodeCmd_instr {r : CmdRecord} {i : Instr} (h : decodeCmd r = .instr i) :
    ∃ op, opOfCode (cwOp r.cw) = some op ∧ cwReserved r.cw = 0 ∧ (cwSeedv r.cw = true → takesSeed op = true) ∧
      i = Instr.ofCommand op r.nIn.toInt (if cwSeedv r.cw then some r.seedIn else none) := by
  unfold decodeCmd at h
  split at h
  · cases h
  · split at h
    · cases h
    · next op hop =>
      split at h
      · cases h
      · refine ⟨op, hop, by simp_all, ?_, by simpa using h.symm⟩
        cases hv : cwSeedv r.cw <;> simp_all

/-- A legal command word is its operation's, with its SEEDV (R45). -/
theorem cw_eq_cwOf {cw : BitVec 8} {op : Op} (hr : cwReserved cw = 0) (ho : opOfCode (cwOp cw) = some op) :
    cw = cwOf op (cwSeedv cw) := by
  have h := opCode_of_opOfCode ho
  revert cw
  cases op <;> decide

end Sys2Proof
end

