-- ==== Sys2Proof/Laws/PerInstr.lean ====
section
/-! SUPPORT. Statements made per instruction. -/

namespace Sys2Proof.Laws

/-- The word of an instruction matches its row's match and mask in spec/opcode_table.json (spec/30_encoding.md R45, R51). -/
def TableRow.matches (e : Encoded) (m mask : Nat) : Prop :=
  match e with
  | .cmd r  => r.cw &&& BitVec.ofNat 8 mask = BitVec.ofNat 8 m
  | .port q => q.wkind &&& BitVec.ofNat 2 mask = BitVec.ofNat 2 m

def TableRow.Statement (i : Instr) : Prop :=
  match i with
  | .rbits _    => TableRow.matches (encode i) 0x00 0xFF
  | .bern _     => TableRow.matches (encode i) 0x01 0xFF
  | .logi _     => TableRow.matches (encode i) 0x02 0xFF
  | .rade _     => TableRow.matches (encode i) 0x03 0xFF
  | .bern64 _ _ => TableRow.matches (encode i) 0x04 0xF7
  | .rade64 _ _ => TableRow.matches (encode i) 0x05 0xF7
  | .next32     => TableRow.matches (encode i) 0x0 0x3
  | .next64     => TableRow.matches (encode i) 0x1 0x3
  | .seed64 _   => TableRow.matches (encode i) 0x2 0x3

theorem TableRow.rbits (n : Int) : TableRow.Statement (.rbits n) := by
  show cwOf .rbits false &&& _ = _; decide

theorem TableRow.bern (n : Int) : TableRow.Statement (.bern n) := by
  show cwOf .bern false &&& _ = _; decide

theorem TableRow.logi (n : Int) : TableRow.Statement (.logi n) := by
  show cwOf .logi false &&& _ = _; decide

theorem TableRow.rade (n : Int) : TableRow.Statement (.rade n) := by
  show cwOf .rade false &&& _ = _; decide

theorem TableRow.bern64 (n : Int) (seed : Option Word64) : TableRow.Statement (.bern64 n seed) := by
  show cwOf .bern64 seed.isSome &&& _ = _; cases seed.isSome <;> decide

theorem TableRow.rade64 (n : Int) (seed : Option Word64) : TableRow.Statement (.rade64 n seed) := by
  show cwOf .rade64 seed.isSome &&& _ = _; cases seed.isSome <;> decide

theorem TableRow.next32 : TableRow.Statement .next32 := by
  show (0 : BitVec 2) &&& _ = _; decide

theorem TableRow.next64 : TableRow.Statement .next64 := by
  show (1 : BitVec 2) &&& _ = _; decide

theorem TableRow.seed64 (v : Word64) : TableRow.Statement (.seed64 v) := by
  show (2 : BitVec 2) &&& _ = _; decide

end Sys2Proof.Laws
end

