-- ==== Sys2Proof/Laws/Sources.lean ====
section
/-! SUPPORT. Everything a word-port transaction can do. -/

namespace Sys2Proof.Machine

/-- Each UNIF draw is counted (spec/40_word_sources.md R56), and a NEXT32 makes two (R58). -/
@[simp] theorem HostGen.draw_drawn (g : HostGen) : g.draw.2.drawn = g.drawn + 1 := by
  unfold HostGen.draw; split <;> rfl

@[simp] theorem HostGen.nextWord_drawn (g : HostGen) : g.nextWord.2.drawn = g.drawn + 2 := by
  simp [HostGen.nextWord]

/-- NEXT32 touches HG, the attached source and the event, and the event carries the word. -/
theorem next32_frame {s t : State} {w : Word32} (h : next32 s = some (w, t)) :
    t = { s with hg := t.hg, src32 := t.src32, lastEvent := some (.next32 w) } := by
  unfold next32 at h
  split at h <;> simp only [Option.some.injEq, Prod.mk.injEq, reduceCtorEq] at h <;> obtain ⟨rfl, rfl⟩ := h <;> simp_all

/-- NEXT64 touches G64, the attached source and the event, and the event carries the word. -/
theorem next64_frame {s t : State} {w : Word64} (h : next64 s = some (w, t)) :
    t = { s with g64 := t.g64, src64 := t.src64, lastEvent := some (.next64 w) } := by
  unfold next64 at h
  split at h <;> simp only [Option.some.injEq, Prod.mk.injEq, reduceCtorEq] at h <;> obtain ⟨rfl, rfl⟩ := h <;> simp_all

/-- A sampling word read leaves every register of the block, OUT and the host's inputs as they were. -/
theorem readWord_frame {src : SrcSel} {s t : State} {w : Word64} (h : readWord src s = some (w, t)) :
    t = { s with hg := t.hg, g64 := t.g64, src32 := t.src32, src64 := t.src64, lastEvent := t.lastEvent } := by
  cases src with
  | src32 =>
    simp only [readWord, Option.map_eq_some_iff] at h
    obtain ⟨⟨w', t'⟩, h, e⟩ := h
    have := next32_frame h
    obtain ⟨rfl, rfl⟩ := Prod.mk.inj e
    rw [this]
  | src64 => rw [next64_frame h]

/-- A source of 32-bit words, listed words used up, does not answer (spec/60_exceptions.md R100). -/
theorem next32_none_iff (s : State) : next32 s = none ↔ s.src32 = .words [] := by
  unfold next32; split <;> simp_all

theorem next64_none_iff (s : State) : next64 s = none ↔ s.src64 = .words [] := by
  unfold next64; split <;> simp_all

end Sys2Proof.Machine
end

