-- ==== Sys2Proof/Laws/State.lean ====
section
/-! SUPPORT. One lemma per field for each named update of State: what it writes and what it keeps. -/

namespace Sys2Proof.Machine

/-! ### wait -/

@[simp] theorem wait_phase (s : State) : (wait s).phase = s.phase := rfl
@[simp] theorem wait_cfg (s : State) : (wait s).cfg = s.cfg := rfl
@[simp] theorem wait_n (s : State) : (wait s).n = s.n := rfl
@[simp] theorem wait_numWords (s : State) : (wait s).numWords = s.numWords := rfl
@[simp] theorem wait_wordsDrawn (s : State) : (wait s).wordsDrawn = s.wordsDrawn := rfl
@[simp] theorem wait_filled (s : State) : (wait s).filled = s.filled := rfl
@[simp] theorem wait_j (s : State) : (wait s).j = s.j := rfl
@[simp] theorem wait_word (s : State) : (wait s).word = s.word := rfl
@[simp] theorem wait_seed (s : State) : (wait s).seed = s.seed := rfl
@[simp] theorem wait_seedDrawn (s : State) : (wait s).seedDrawn = s.seedDrawn := rfl
@[simp] theorem wait_errcode (s : State) : (wait s).errcode = s.errcode := rfl
@[simp] theorem wait_g64 (s : State) : (wait s).g64 = s.g64 := rfl
@[simp] theorem wait_hg (s : State) : (wait s).hg = s.hg := rfl
@[simp] theorem wait_src32 (s : State) : (wait s).src32 = s.src32 := rfl
@[simp] theorem wait_src64 (s : State) : (wait s).src64 = s.src64 := rfl
@[simp] theorem wait_out (s : State) : (wait s).out = s.out := rfl
@[simp] theorem wait_cmdPort (s : State) : (wait s).cmdPort = s.cmdPort := rfl
@[simp] theorem wait_resetIn (s : State) : (wait s).resetIn = s.resetIn := rfl
@[simp] theorem wait_freeIx (s : State) : (wait s).freeIx = s.freeIx := rfl
@[simp] theorem wait_lastEvent (s : State) : (wait s).lastEvent = none := rfl

/-! ### sampled -/

@[simp] theorem sampled_phase (s : State) : (sampled s).phase = s.phase := rfl
@[simp] theorem sampled_cfg (s : State) : (sampled s).cfg = s.cfg := rfl
@[simp] theorem sampled_n (s : State) : (sampled s).n = s.n := rfl
@[simp] theorem sampled_numWords (s : State) : (sampled s).numWords = s.numWords := rfl
@[simp] theorem sampled_wordsDrawn (s : State) : (sampled s).wordsDrawn = s.wordsDrawn := rfl
@[simp] theorem sampled_filled (s : State) : (sampled s).filled = s.filled := rfl
@[simp] theorem sampled_j (s : State) : (sampled s).j = s.j := rfl
@[simp] theorem sampled_word (s : State) : (sampled s).word = s.word := rfl
@[simp] theorem sampled_seed (s : State) : (sampled s).seed = s.seed := rfl
@[simp] theorem sampled_seedDrawn (s : State) : (sampled s).seedDrawn = s.seedDrawn := rfl
@[simp] theorem sampled_errcode (s : State) : (sampled s).errcode = s.errcode := rfl
@[simp] theorem sampled_g64 (s : State) : (sampled s).g64 = s.g64 := rfl
@[simp] theorem sampled_hg (s : State) : (sampled s).hg = s.hg := rfl
@[simp] theorem sampled_src32 (s : State) : (sampled s).src32 = s.src32 := rfl
@[simp] theorem sampled_src64 (s : State) : (sampled s).src64 = s.src64 := rfl
@[simp] theorem sampled_out (s : State) : (sampled s).out = s.out := rfl
@[simp] theorem sampled_cmdPort (s : State) : (sampled s).cmdPort = s.cmdPort := rfl
@[simp] theorem sampled_resetIn (s : State) : (sampled s).resetIn = s.resetIn.tail := rfl
@[simp] theorem sampled_freeIx (s : State) : (sampled s).freeIx = s.freeIx := rfl
@[simp] theorem sampled_lastEvent (s : State) : (sampled s).lastEvent = s.lastEvent := rfl

/-! ### latchCommand -/

@[simp] theorem latchCommand_phase (cw : BitVec 8) (s : State) : (latchCommand cw s).phase = s.phase := rfl
@[simp] theorem latchCommand_cfg (cw : BitVec 8) (s : State) : (latchCommand cw s).cfg = cw := rfl
@[simp] theorem latchCommand_n (cw : BitVec 8) (s : State) : (latchCommand cw s).n = s.n := rfl
@[simp] theorem latchCommand_numWords (cw : BitVec 8) (s : State) : (latchCommand cw s).numWords = s.numWords := rfl
@[simp] theorem latchCommand_wordsDrawn (cw : BitVec 8) (s : State) : (latchCommand cw s).wordsDrawn = 0 := rfl
@[simp] theorem latchCommand_filled (cw : BitVec 8) (s : State) : (latchCommand cw s).filled = 0 := rfl
@[simp] theorem latchCommand_j (cw : BitVec 8) (s : State) : (latchCommand cw s).j = 0 := rfl
@[simp] theorem latchCommand_word (cw : BitVec 8) (s : State) : (latchCommand cw s).word = s.word := rfl
@[simp] theorem latchCommand_seed (cw : BitVec 8) (s : State) : (latchCommand cw s).seed = s.seed := rfl
@[simp] theorem latchCommand_seedDrawn (cw : BitVec 8) (s : State) : (latchCommand cw s).seedDrawn = false := rfl
@[simp] theorem latchCommand_errcode (cw : BitVec 8) (s : State) : (latchCommand cw s).errcode = s.errcode := rfl
@[simp] theorem latchCommand_g64 (cw : BitVec 8) (s : State) : (latchCommand cw s).g64 = s.g64 := rfl
@[simp] theorem latchCommand_hg (cw : BitVec 8) (s : State) : (latchCommand cw s).hg = s.hg := rfl
@[simp] theorem latchCommand_src32 (cw : BitVec 8) (s : State) : (latchCommand cw s).src32 = s.src32 := rfl
@[simp] theorem latchCommand_src64 (cw : BitVec 8) (s : State) : (latchCommand cw s).src64 = s.src64 := rfl
@[simp] theorem latchCommand_out (cw : BitVec 8) (s : State) : (latchCommand cw s).out = s.out := rfl
@[simp] theorem latchCommand_cmdPort (cw : BitVec 8) (s : State) : (latchCommand cw s).cmdPort = s.cmdPort := rfl
@[simp] theorem latchCommand_resetIn (cw : BitVec 8) (s : State) : (latchCommand cw s).resetIn = s.resetIn := rfl
@[simp] theorem latchCommand_freeIx (cw : BitVec 8) (s : State) : (latchCommand cw s).freeIx = s.freeIx := rfl
@[simp] theorem latchCommand_lastEvent (cw : BitVec 8) (s : State) : (latchCommand cw s).lastEvent = some .commandRead := rfl

/-! ### raiseError -/

@[simp] theorem raiseError_phase (code : ErrCode) (s : State) : (raiseError code s).phase = .error := rfl
@[simp] theorem raiseError_cfg (code : ErrCode) (s : State) : (raiseError code s).cfg = s.cfg := rfl
@[simp] theorem raiseError_n (code : ErrCode) (s : State) : (raiseError code s).n = 0 := rfl
@[simp] theorem raiseError_numWords (code : ErrCode) (s : State) : (raiseError code s).numWords = 0 := rfl
@[simp] theorem raiseError_wordsDrawn (code : ErrCode) (s : State) : (raiseError code s).wordsDrawn = s.wordsDrawn := rfl
@[simp] theorem raiseError_filled (code : ErrCode) (s : State) : (raiseError code s).filled = s.filled := rfl
@[simp] theorem raiseError_j (code : ErrCode) (s : State) : (raiseError code s).j = s.j := rfl
@[simp] theorem raiseError_word (code : ErrCode) (s : State) : (raiseError code s).word = s.word := rfl
@[simp] theorem raiseError_seed (code : ErrCode) (s : State) : (raiseError code s).seed = 0 := rfl
@[simp] theorem raiseError_seedDrawn (code : ErrCode) (s : State) : (raiseError code s).seedDrawn = s.seedDrawn := rfl
@[simp] theorem raiseError_errcode (code : ErrCode) (s : State) : (raiseError code s).errcode = code := rfl
@[simp] theorem raiseError_g64 (code : ErrCode) (s : State) : (raiseError code s).g64 = s.g64 := rfl
@[simp] theorem raiseError_hg (code : ErrCode) (s : State) : (raiseError code s).hg = s.hg := rfl
@[simp] theorem raiseError_src32 (code : ErrCode) (s : State) : (raiseError code s).src32 = s.src32 := rfl
@[simp] theorem raiseError_src64 (code : ErrCode) (s : State) : (raiseError code s).src64 = s.src64 := rfl
@[simp] theorem raiseError_out (code : ErrCode) (s : State) : (raiseError code s).out = s.out := rfl
@[simp] theorem raiseError_cmdPort (code : ErrCode) (s : State) : (raiseError code s).cmdPort = s.cmdPort := rfl
@[simp] theorem raiseError_resetIn (code : ErrCode) (s : State) : (raiseError code s).resetIn = s.resetIn := rfl
@[simp] theorem raiseError_freeIx (code : ErrCode) (s : State) : (raiseError code s).freeIx = s.freeIx := rfl
@[simp] theorem raiseError_lastEvent (code : ErrCode) (s : State) : (raiseError code s).lastEvent = s.lastEvent := rfl

/-! ### slotWrite -/

@[simp] theorem slotWrite_phase (i : Word32) (v : Slot) (s : State) : (slotWrite i v s).phase = s.phase := rfl
@[simp] theorem slotWrite_cfg (i : Word32) (v : Slot) (s : State) : (slotWrite i v s).cfg = s.cfg := rfl
@[simp] theorem slotWrite_n (i : Word32) (v : Slot) (s : State) : (slotWrite i v s).n = s.n := rfl
@[simp] theorem slotWrite_numWords (i : Word32) (v : Slot) (s : State) : (slotWrite i v s).numWords = s.numWords := rfl
@[simp] theorem slotWrite_wordsDrawn (i : Word32) (v : Slot) (s : State) : (slotWrite i v s).wordsDrawn = s.wordsDrawn := rfl
@[simp] theorem slotWrite_filled (i : Word32) (v : Slot) (s : State) : (slotWrite i v s).filled = s.filled := rfl
@[simp] theorem slotWrite_j (i : Word32) (v : Slot) (s : State) : (slotWrite i v s).j = s.j := rfl
@[simp] theorem slotWrite_word (i : Word32) (v : Slot) (s : State) : (slotWrite i v s).word = s.word := rfl
@[simp] theorem slotWrite_seed (i : Word32) (v : Slot) (s : State) : (slotWrite i v s).seed = s.seed := rfl
@[simp] theorem slotWrite_seedDrawn (i : Word32) (v : Slot) (s : State) : (slotWrite i v s).seedDrawn = s.seedDrawn := rfl
@[simp] theorem slotWrite_errcode (i : Word32) (v : Slot) (s : State) : (slotWrite i v s).errcode = s.errcode := rfl
@[simp] theorem slotWrite_g64 (i : Word32) (v : Slot) (s : State) : (slotWrite i v s).g64 = s.g64 := rfl
@[simp] theorem slotWrite_hg (i : Word32) (v : Slot) (s : State) : (slotWrite i v s).hg = s.hg := rfl
@[simp] theorem slotWrite_src32 (i : Word32) (v : Slot) (s : State) : (slotWrite i v s).src32 = s.src32 := rfl
@[simp] theorem slotWrite_src64 (i : Word32) (v : Slot) (s : State) : (slotWrite i v s).src64 = s.src64 := rfl
@[simp] theorem slotWrite_out (i : Word32) (v : Slot) (s : State) : (slotWrite i v s).out = s.out.write i.toNat v := rfl
@[simp] theorem slotWrite_cmdPort (i : Word32) (v : Slot) (s : State) : (slotWrite i v s).cmdPort = s.cmdPort := rfl
@[simp] theorem slotWrite_resetIn (i : Word32) (v : Slot) (s : State) : (slotWrite i v s).resetIn = s.resetIn := rfl
@[simp] theorem slotWrite_freeIx (i : Word32) (v : Slot) (s : State) : (slotWrite i v s).freeIx = s.freeIx := rfl
@[simp] theorem slotWrite_lastEvent (i : Word32) (v : Slot) (s : State) : (slotWrite i v s).lastEvent = some (.slotWrite i v) := rfl

/-! ### seedWrite -/

@[simp] theorem seedWrite_phase (v : Word64) (s : State) : (seedWrite v s).phase = s.phase := rfl
@[simp] theorem seedWrite_cfg (v : Word64) (s : State) : (seedWrite v s).cfg = s.cfg := rfl
@[simp] theorem seedWrite_n (v : Word64) (s : State) : (seedWrite v s).n = s.n := rfl
@[simp] theorem seedWrite_numWords (v : Word64) (s : State) : (seedWrite v s).numWords = s.numWords := rfl
@[simp] theorem seedWrite_wordsDrawn (v : Word64) (s : State) : (seedWrite v s).wordsDrawn = s.wordsDrawn := rfl
@[simp] theorem seedWrite_filled (v : Word64) (s : State) : (seedWrite v s).filled = s.filled := rfl
@[simp] theorem seedWrite_j (v : Word64) (s : State) : (seedWrite v s).j = s.j := rfl
@[simp] theorem seedWrite_word (v : Word64) (s : State) : (seedWrite v s).word = s.word := rfl
@[simp] theorem seedWrite_seed (v : Word64) (s : State) : (seedWrite v s).seed = s.seed := rfl
@[simp] theorem seedWrite_seedDrawn (v : Word64) (s : State) : (seedWrite v s).seedDrawn = s.seedDrawn := rfl
@[simp] theorem seedWrite_errcode (v : Word64) (s : State) : (seedWrite v s).errcode = s.errcode := rfl
@[simp] theorem seedWrite_g64 (v : Word64) (s : State) : (seedWrite v s).g64 = v := rfl
@[simp] theorem seedWrite_hg (v : Word64) (s : State) : (seedWrite v s).hg = s.hg := rfl
@[simp] theorem seedWrite_src32 (v : Word64) (s : State) : (seedWrite v s).src32 = s.src32 := rfl
@[simp] theorem seedWrite_src64 (v : Word64) (s : State) : (seedWrite v s).src64 = s.src64 := rfl
@[simp] theorem seedWrite_out (v : Word64) (s : State) : (seedWrite v s).out = s.out := rfl
@[simp] theorem seedWrite_cmdPort (v : Word64) (s : State) : (seedWrite v s).cmdPort = s.cmdPort := rfl
@[simp] theorem seedWrite_resetIn (v : Word64) (s : State) : (seedWrite v s).resetIn = s.resetIn := rfl
@[simp] theorem seedWrite_freeIx (v : Word64) (s : State) : (seedWrite v s).freeIx = s.freeIx := rfl
@[simp] theorem seedWrite_lastEvent (v : Word64) (s : State) : (seedWrite v s).lastEvent = some (.seed64 v) := rfl

/-! ### resetStep -/

@[simp] theorem resetStep_phase (s : State) : (resetStep s).phase = .idle := rfl
@[simp] theorem resetStep_cfg (s : State) : (resetStep s).cfg = 0 := rfl
@[simp] theorem resetStep_n (s : State) : (resetStep s).n = 0 := rfl
@[simp] theorem resetStep_numWords (s : State) : (resetStep s).numWords = 0 := rfl
@[simp] theorem resetStep_wordsDrawn (s : State) : (resetStep s).wordsDrawn = 0 := rfl
@[simp] theorem resetStep_filled (s : State) : (resetStep s).filled = 0 := rfl
@[simp] theorem resetStep_j (s : State) : (resetStep s).j = 0 := rfl
@[simp] theorem resetStep_word (s : State) : (resetStep s).word = Config.resetWord s.freeIx := rfl
@[simp] theorem resetStep_seed (s : State) : (resetStep s).seed = 0 := rfl
@[simp] theorem resetStep_seedDrawn (s : State) : (resetStep s).seedDrawn = false := rfl
@[simp] theorem resetStep_errcode (s : State) : (resetStep s).errcode = .none := rfl
@[simp] theorem resetStep_g64 (s : State) : (resetStep s).g64 = s.g64 := rfl
@[simp] theorem resetStep_hg (s : State) : (resetStep s).hg = s.hg := rfl
@[simp] theorem resetStep_src32 (s : State) : (resetStep s).src32 = s.src32 := rfl
@[simp] theorem resetStep_src64 (s : State) : (resetStep s).src64 = s.src64 := rfl
@[simp] theorem resetStep_out (s : State) : (resetStep s).out = s.out := rfl
@[simp] theorem resetStep_cmdPort (s : State) : (resetStep s).cmdPort = s.cmdPort := rfl
@[simp] theorem resetStep_resetIn (s : State) : (resetStep s).resetIn = s.resetIn := rfl
@[simp] theorem resetStep_freeIx (s : State) : (resetStep s).freeIx = s.freeIx + 1 := rfl
@[simp] theorem resetStep_lastEvent (s : State) : (resetStep s).lastEvent = none := rfl

end Sys2Proof.Machine
end

