-- ==== Sys2Proof/Laws/Step.lean ====
section
/-! SUPPORT. Everything a step can do, said once. -/

namespace Sys2Proof.Machine

/-- The six commands' meanings are one shared step with the operation's constants. -/
theorem exec_ofCommand (op : Op) (n : Int) (seed : Option Word64) (s : State) :
    exec (Instr.ofCommand op n seed) s = .next (commandStep op n (if takesSeed op then seed else none) s) := by
  cases op <;> rfl

/-- What `accept` can do: an error of its own cause, or the set-up of R75. -/
theorem accept_cases (op : Op) (n : Int) (seed : Option Word64) (s : State) :
    (n < 0 ∧ accept op n seed s = raiseError .nNegative (latchCommand (cwOf op seed.isSome) s)) ∨
    (nMax < n ∧ accept op n seed s = raiseError .nTooLarge (latchCommand (cwOf op seed.isSome) s)) ∨
    (0 ≤ n ∧ n ≤ nMax ∧ accept op n seed s =
      { latchCommand (cwOf op seed.isSome) s with
        errcode := .none, n := BitVec.ofInt 32 n, numWords := BitVec.ofNat 32 (plannedWords op n.toNat),
        seed := seed.getD 0, phase := firstPhase op n seed }) := by
  by_cases h0 : n < 0
  · exact .inl ⟨h0, by simp [accept, h0]⟩
  · by_cases h1 : n > nMax
    · exact .inr (.inl ⟨h1, by simp [accept, h0, h1]⟩)
    · exact .inr (.inr ⟨by omega, by omega, by simp [accept, h0, h1]⟩)

/-- SEEDDRAW, by cases on the answer. -/
theorem seedDrawStep_cases (s : State) :
    (next32 s = none ∧ seedDrawStep s = wait s) ∨
    ∃ w t, next32 s = some (w, t) ∧
      seedDrawStep s = { t with seed := w.setWidth 64, seedDrawn := true, phase := .seedload } := by
  unfold seedDrawStep
  cases h : next32 s with
  | none => exact .inl ⟨rfl, rfl⟩
  | some a => exact .inr ⟨a.1, a.2, rfl, rfl⟩

/-- FETCH, by cases on the answer. -/
theorem fetchStep_cases (op : Op) (s : State) :
    (readWord (srcSel op) s = none ∧ fetchStep op s = wait s) ∨
    ∃ w t, readWord (srcSel op) s = some (w, t) ∧
      fetchStep op s = { t with word := w, wordsDrawn := t.wordsDrawn + 1, j := 0, phase := .emit } := by
  unfold fetchStep
  cases h : readWord (srcSel op) s with
  | none => exact .inl ⟨rfl, rfl⟩
  | some a => exact .inr ⟨a.1, a.2, rfl, rfl⟩

/-- A command advances in its own busy phases. -/
theorem commandStep_busy {op : Op} {s : State} (n : Int) (seed : Option Word64) (hb : s.phase.accepting = false)
    (hc : s.op = some op) : commandStep op n seed s = busyStep op s := by
  simp [commandStep, hb, opCode_of_opOfCode hc]

/-- Everything a busy step can do: wait for a word, draw the seed, load it, fetch a word, or write a slot. -/
theorem busyStep_cases {op : Op} {s : State} (ha : s.phase.accepting = false) :
    (s.phase = .seeddraw ∧ s.src32 = .words [] ∧ busyStep op s = wait s) ∨
    (s.phase = .seeddraw ∧ s.src32 ≠ .words [] ∧ ∃ w g src,
      next32 s = some (w, { s with hg := g, src32 := src, lastEvent := some (.next32 w) }) ∧
      busyStep op s = { s with
        hg := g, src32 := src, lastEvent := some (.next32 w), seed := w.setWidth 64, seedDrawn := true,
        phase := .seedload }) ∨
    (s.phase = .seedload ∧
      busyStep op s = { s with g64 := s.seed, phase := .fetch, lastEvent := some (.seed64 s.seed) }) ∨
    (s.phase = .fetch ∧ srcSel op = .src32 ∧ s.src32 = .words [] ∧ busyStep op s = wait s) ∨
    (s.phase = .fetch ∧ srcSel op = .src64 ∧ s.src64 = .words [] ∧ busyStep op s = wait s) ∨
    (s.phase = .fetch ∧ srcSel op = .src32 ∧ s.src32 ≠ .words [] ∧ ∃ w g src,
      next32 s = some (w, { s with hg := g, src32 := src, lastEvent := some (.next32 w) }) ∧
      busyStep op s = { s with
        hg := g, src32 := src, lastEvent := some (.next32 w), word := w.setWidth 64,
        wordsDrawn := s.wordsDrawn + 1, j := 0, phase := .emit }) ∨
    (s.phase = .fetch ∧ srcSel op = .src64 ∧ s.src64 ≠ .words [] ∧ ∃ w g src,
      next64 s = some (w, { s with g64 := g, src64 := src, lastEvent := some (.next64 w) }) ∧
      busyStep op s = { s with
        g64 := g, src64 := src, lastEvent := some (.next64 w), word := w, wordsDrawn := s.wordsDrawn + 1, j := 0,
        phase := .emit }) ∨
    (s.phase = .emit ∧ busyStep op s = emitStep op s) := by
  cases hp : s.phase
  case idle => simp [hp, Phase.accepting, Phase.busy] at ha
  case done => simp [hp, Phase.accepting, Phase.busy] at ha
  case error => simp [hp, Phase.accepting, Phase.busy] at ha
  case seeddraw =>
    cases h : next32 s with
    | none => exact .inl ⟨rfl, (next32_none_iff s).1 h, by simp [busyStep, hp, seedDrawStep, h]⟩
    | some a =>
      obtain ⟨w, t⟩ := a
      have ht := next32_frame h
      refine .inr (.inl ⟨rfl, (fun e => by rw [(next32_none_iff s).2 e] at h; cases h), w, t.hg, t.src32, ?_, ?_⟩)
      · rw [ht, hp]
      · simp only [busyStep, hp, seedDrawStep, h]
        rw [ht]
  case seedload => exact .inr (.inr (.inl ⟨rfl, by simp only [busyStep, hp]; rfl⟩))
  case fetch =>
    cases hs : srcSel op with
    | src32 =>
      cases h : next32 s with
      | none =>
        exact .inr (.inr (.inr (.inl ⟨rfl, rfl, (next32_none_iff s).1 h, by
          simp [busyStep, hp, fetchStep, hs, readWord, h]⟩)))
      | some a =>
        obtain ⟨w, t⟩ := a
        have ht := next32_frame h
        refine .inr (.inr (.inr (.inr (.inr (.inl ⟨rfl, rfl, (fun e => by
          rw [(next32_none_iff s).2 e] at h; cases h), w, t.hg, t.src32, ?_, ?_⟩)))))
        · rw [ht, hp]
        · simp only [busyStep, hp, fetchStep, hs, readWord, h, Option.map_some]
          rw [ht]
    | src64 =>
      cases h : next64 s with
      | none =>
        exact .inr (.inr (.inr (.inr (.inl ⟨rfl, rfl, (next64_none_iff s).1 h, by
          simp [busyStep, hp, fetchStep, hs, readWord, h]⟩))))
      | some a =>
        obtain ⟨w, t⟩ := a
        have ht := next64_frame h
        refine .inr (.inr (.inr (.inr (.inr (.inr (.inl ⟨rfl, rfl, (fun e => by
          rw [(next64_none_iff s).2 e] at h; cases h), w, t.g64, t.src64, ?_, ?_⟩))))))
        · rw [ht, hp]
        · simp only [busyStep, hp, fetchStep, hs, readWord, h]
          rw [ht]
  case emit => exact .inr (.inr (.inr (.inr (.inr (.inr (.inr ⟨rfl, by simp only [busyStep, hp]⟩))))))

/-- A presented command is accepted. -/
theorem exec_of_accepting {op : Op} {seed : Option Word64} {s : State} (n : Int) (ha : s.phase.accepting = true)
    (hs : seed.isSome = true → takesSeed op = true) :
    exec (Instr.ofCommand op n seed) s = .next (accept op n seed s) := by
  rw [exec_ofCommand]
  cases seed with
  | none => simp [commandStep, ha]
  | some v => simp [commandStep, ha, hs rfl]

/-- A running command takes its busy phase's step. -/
theorem exec_of_busy {op : Op} {s : State} (n : Int) (seed : Option Word64) (ha : s.phase.accepting = false)
    (hc : cwOp s.cfg = opCode op) : exec (Instr.ofCommand op n seed) s = .next (busyStep op s) := by
  rw [exec_ofCommand]
  simp [commandStep, ha, hc]

/-- A step in a busy phase is the phase's step of the operation CFG holds. -/
theorem step_of_busy {s : State} {op : Op} (hr : resetNow s = false) (ha : s.phase.accepting = false)
    (ho : s.op = some op) : step s = .next (busyStep op (sampled s)) := by
  simp only [step, turn, hr, ha, Bool.false_eq_true, if_false, busyTurn, running, sampled_cfg,
    show opOfCode (cwOp s.cfg) = some op from ho, Option.map_some]
  exact exec_of_busy _ _ ha (opCode_of_opOfCode ho)

/-- Every way a step answers with a next state. -/
theorem step_cases {s t : State} (h : step s = .next t) :
    (resetNow s = true ∧ t = resetStep (sampled s)) ∨
    (resetNow s = false ∧ s.phase.accepting = true ∧
      ((s.cmdPort = [] ∧ t = wait (sampled s)) ∨
       ∃ r rest, s.cmdPort = r :: rest ∧
        ((∃ why, decodeCmd r = .illegal why ∧ t = acceptIllegal r.cw { sampled s with cmdPort := rest }) ∨
         ∃ op seed, decodeCmd r = .instr (Instr.ofCommand op r.nIn.toInt seed) ∧ r.cw = cwOf op seed.isSome ∧
          (seed.isSome = true → takesSeed op = true ∧ seed = some r.seedIn) ∧
          t = accept op r.nIn.toInt seed { sampled s with cmdPort := rest }))) ∨
    (resetNow s = false ∧ s.phase.accepting = false ∧ ∃ op, s.op = some op ∧ t = busyStep op (sampled s)) := by
  unfold step turn at h
  cases hr : resetNow s with
  | true =>
    simp only [hr, if_true, Host.Outcome.next.injEq] at h
    exact .inl ⟨rfl, h.symm⟩
  | false =>
    cases ha : s.phase.accepting with
    | true =>
      refine .inr (.inl ⟨rfl, rfl, ?_⟩)
      simp only [hr, ha, if_true, Bool.false_eq_true, if_false, acceptTurn, sampled_cmdPort] at h
      cases hp : s.cmdPort with
      | nil =>
        simp only [hp, Host.Outcome.next.injEq] at h
        exact .inl ⟨rfl, h.symm⟩
      | cons r rest =>
        refine .inr ⟨r, rest, rfl, ?_⟩
        simp only [hp] at h
        cases hd : decodeCmd r with
        | illegal why =>
          simp only [hd, Host.Outcome.next.injEq] at h
          exact .inl ⟨why, rfl, h.symm⟩
        | instr i =>
          simp only [hd] at h
          obtain ⟨op, ho, hres, hs, rfl⟩ := decodeCmd_instr hd
          have hcw := cw_eq_cwOf hres ho
          refine .inr ⟨op, _, rfl, ?_, ?_, ?_⟩
          · rw [hcw]
            cases cwSeedv r.cw <;> simp
          · intro hv
            cases h' : cwSeedv r.cw with
            | true => exact ⟨hs h', rfl⟩
            | false => rw [h'] at hv; cases hv
          · rw [exec_ofCommand, Host.Outcome.next.injEq] at h
            have : (if takesSeed op then (if cwSeedv r.cw then some r.seedIn else none) else none) =
                (if cwSeedv r.cw then some r.seedIn else none) := by
              cases hv : cwSeedv r.cw with
              | true => rw [hs hv]; rfl
              | false => exact ite_self _
            rw [this] at h
            rw [← h]
            simp [commandStep, ha]
    | false =>
      refine .inr (.inr ⟨rfl, rfl, ?_⟩)
      simp only [hr, ha, Bool.false_eq_true, if_false, busyTurn, running, sampled_cfg] at h
      cases ho : opOfCode (cwOp s.cfg) with
      | none => simp [ho] at h
      | some op =>
        simp only [ho, Option.map_some] at h
        rw [exec_ofCommand, Host.Outcome.next.injEq] at h
        exact ⟨op, ho, by rw [← h]; exact commandStep_busy _ _ ha ho⟩

end Sys2Proof.Machine
end

