-- ==== Sys2Proof/Tests/Slice0.lean ====
section
/-! SUPPORT. The model's own tests. Expected values come from the worked examples and tables of spec/95_test_vectors.md
and of the rules, named at each test. The last part shows, for each statement of
Certificates/Slice0/Obligations.lean with hypotheses, a state and operands that meet them. -/

namespace Sys2Proof.Tests

open Sys2Proof Sys2Proof.Machine

/-! ### Helpers -/

/-- Does the outcome give a next state that passes `p`? -/
def nextIs (o : Host.Outcome State Fault Refusal) (p : State → Bool) : Bool :=
  match o with
  | .next t    => p t
  | .fault _   => false
  | .refused _ => false

/-- A command record. -/
def record (cw : BitVec 8) (n : Int) (seed : Word64) : CmdRecord :=
  { cw := cw, nIn := BitVec.ofInt 64 n, seedIn := seed }

/-- The reset state with a record on the command port and the constant word 5 as SRC32. -/
def presented (r : CmdRecord) : State := { State.reset with cmdPort := [r], src32 := .const 5 }

/-- A command of count n that has been accepted, in the given phase. -/
def midRun (p : Phase) (cw : BitVec 8) (n words : Word32) : State :=
  { State.reset with phase := p, cfg := cw, n := n, numWords := words, src32 := .const 5 }

/-- The same, in EMIT, with a word held. -/
def holding (cw : BitVec 8) (n words drawn filled : Word32) (j : BitVec 6) (w : Word64) : State :=
  { midRun .emit cw n words with wordsDrawn := drawn, filled := filled, j := j, word := w }

/-- UNIF with its next draws fixed. -/
def halves (hs : List (BitVec 16)) (s : State) : State := { s with src32 := .unif, hg := { drawn := 0, script := hs } }

/-! ### Well-formedness: each check refuses an ill-formed term -/

theorem test_wf_refuses_wide_counts :
    (Instr.rbits (2 ^ 63)).wf = false ∧ (Instr.bern (2 ^ 63)).wf = false ∧ (Instr.logi (2 ^ 63)).wf = false ∧
    (Instr.rade (2 ^ 63)).wf = false ∧ (Instr.bern64 (2 ^ 63) none).wf = false ∧
    (Instr.rade64 (2 ^ 63) (some 1)).wf = false := by decide

theorem test_wf_refuses_low_counts :
    (Instr.rbits (-(2 ^ 63) - 1)).wf = false ∧ (Instr.bern (-(2 ^ 63) - 1)).wf = false ∧
    (Instr.logi (-(2 ^ 63) - 1)).wf = false ∧ (Instr.rade (-(2 ^ 63) - 1)).wf = false ∧
    (Instr.bern64 (-(2 ^ 63) - 1) (some 0)).wf = false ∧ (Instr.rade64 (-(2 ^ 63) - 1) none).wf = false := by decide

theorem test_wf_accepts_edges :
    (Instr.rbits (2 ^ 63 - 1)).wf = true ∧ (Instr.rade64 (-(2 ^ 63)) none).wf = true ∧ Instr.next32.wf = true ∧
    Instr.next64.wf = true ∧ (Instr.seed64 0).wf = true := by decide

/-! ### Decoding of words written out from spec/30_encoding.md: CW = 0000 SEEDV OP (R44, R45), WKIND (R51) -/

theorem test_decode_rbits : decode (.cmd (record 0b0000_0_000#8 2 9)) = .instr (.rbits 2) := by decide
theorem test_decode_bern : decode (.cmd (record 0b0000_0_001#8 2147483647 9)) = .instr (.bern 2147483647) := by decide
theorem test_decode_logi : decode (.cmd (record 0b0000_0_010#8 3 9)) = .instr (.logi 3) := by decide
theorem test_decode_rade : decode (.cmd (record 0b0000_0_011#8 (-1) 9)) = .instr (.rade (-1)) := by decide
theorem test_decode_bern64_unseeded : decode (.cmd (record 0b0000_0_100#8 5 9)) = .instr (.bern64 5 none) := by decide
theorem test_decode_rade64_unseeded : decode (.cmd (record 0b0000_0_101#8 5 9)) = .instr (.rade64 5 none) := by decide
theorem test_decode_bern64_seeded : decode (.cmd (record 0b0000_1_100#8 65 0)) = .instr (.bern64 65 (some 0)) := by decide
theorem test_decode_rade64_seeded : decode (.cmd (record 0b0000_1_101#8 33 1)) = .instr (.rade64 33 (some 1)) := by decide
theorem test_decode_next32 : decode (.port { wkind := 0b00#2, data := 0 }) = .instr .next32 := by decide
theorem test_decode_next64 : decode (.port { wkind := 0b01#2, data := 0 }) = .instr .next64 := by decide
theorem test_decode_seed64 : decode (.port { wkind := 0b10#2, data := 42 }) = .instr (.seed64 42) := by decide

/-- N_IN is 64 bits signed, not 32: 0xFFFFFFFF is 4294967295, and bit 63 is the sign (section 2.5, bounds on N_IN). -/
theorem test_decode_count_is_signed_64 :
    decode (.cmd { cw := 0x01, nIn := 0x00000000FFFFFFFF, seedIn := 0 }) = .instr (.bern 4294967295) ∧
    decode (.cmd { cw := 0x01, nIn := 0x8000000000000000, seedIn := 0 }) = .instr (.bern (-9223372036854775808)) := by
  decide

/-- The illegal words of section 2.5, each rejected by its cause; WKIND 3 is reserved (R51). -/
theorem test_decode_rejects :
    (∀ cw ∈ [0x06#8, 0x07#8, 0x0E#8, 0x0F#8], decode (.cmd (record cw 5 9)) = .illegal .reservedOp) ∧
    (∀ cw ∈ [0x08#8, 0x09#8, 0x0A#8, 0x0B#8], decode (.cmd (record cw 5 9)) = .illegal .seedNotTaken) ∧
    (∀ cw ∈ [0x11#8, 0x21#8, 0x41#8, 0x81#8], decode (.cmd (record cw 5 9)) = .illegal .reservedBits) ∧
    decode (.port { wkind := 0b11#2, data := 0 }) = .illegal .reservedKind := by decide

/-- The words of the program records P1, P3, P4 (spec/95_test_vectors.md section 3). -/
theorem test_encode_programs :
    encode (.bern 3) = .cmd { cw := 0x01, nIn := 3, seedIn := 0 } ∧
    encode (.bern64 65 (some 0)) = .cmd { cw := 0x0C, nIn := 65, seedIn := 0 } ∧
    encode (.rade64 33 (some 1)) = .cmd { cw := 0x0D, nIn := 33, seedIn := 1 } := by decide

/-- The opcode table's numbering (log 14): CW in bits 7:0, zeros above; a width below one byte is the word port's. -/
theorem test_decode_table_words :
    decodeTableWord 8 0x02 = some (.logi 0) ∧ decodeTableWord 8 0x0D = some (.rade64 0 (some 0)) ∧
    decodeTableWord 8 0x06 = none ∧ decodeTableWord 136 (0x0C + 65 * 2 ^ 8 + 7 * 2 ^ 72) = some (.bern64 65 (some 7)) ∧
    decodeTableWord 2 0 = some .next32 ∧ decodeTableWord 2 1 = some .next64 ∧ decodeTableWord 2 2 = some (.seed64 0) := by
  decide

/-- The host's placement runs the placed row as the first instruction after reset (log 15): one word-port row and one
command row, whose count is 0 (so ACCEPT ends in DONE, section 2.5). -/
theorem test_placed_words_run :
    nextIs (step (State.reset.withFetchWord 2 2)) (fun t => decide (t.lastEvent = some (.seed64 0))) = true ∧
    nextIs (step (State.reset.withFetchWord 8 0x0D)) (fun t => decide (t.status = 0x0015 ∧ t.cfg = 0x0D)) = true := by
  decide

/-! ### Single steps -/

/-- P6, ACCEPT. -/
theorem test_rbits_accept :
    nextIs (step (presented (record 0x00 2 0))) (fun t =>
      decide (t.status = 0x000B ∧ t.n = 2 ∧ t.numWords = 2 ∧ t.wordsDrawn = 0 ∧ t.cmdPort = [])) = true := by decide

/-- P6, the first EMIT: bit 31 is kept, J stays 0, and the next word is fetched. -/
theorem test_rbits_emit :
    nextIs (step (holding 0x00 2 2 1 0 0 0x80004000)) (fun t =>
      decide (t.status = 0x000B ∧ t.filled = 1 ∧ t.j = 0 ∧ t.out.read 0 = some { val := 0x80004000, otype := .int })) =
      true := by decide

/-- Section 1, property 6: n = 2147483647 is legal. -/
theorem test_bern_accept_largest :
    nextIs (step (presented (record 0x01 2147483647 0))) (fun t =>
      decide (t.status = 0x000B ∧ t.n = 2147483647 ∧ t.numWords = 69273667)) = true := by decide

/-- P1, the last EMIT: slot 2 is bit 2 of 5, and the command is done. -/
theorem test_bern_emit_last :
    nextIs (step (holding 0x01 3 1 1 2 2 5)) (fun t =>
      decide (t.status = 0x0015 ∧ t.filled = 3 ∧ t.j = 3 ∧ t.out.read 2 = some { val := 1, otype := .int })) = true := by
  decide

/-- Section 2.5, CW 0x02 with n = 5. -/
theorem test_logi_accept :
    nextIs (step (presented (record 0x02 5 9))) (fun t =>
      decide (t.status = 0x000B ∧ t.cfg = 0x02 ∧ t.numWords = 1 ∧ t.seed = 0)) = true := by decide

/-- P1 with CW 0x02: slot 1 is false. -/
theorem test_logi_emit :
    nextIs (step (holding 0x02 3 1 1 1 1 5)) (fun t =>
      decide (t.status = 0x000C ∧ t.out.read 1 = some { val := 0, otype := .bool })) = true := by decide

/-- P2, slot 14: bit 14 of 0x80004000. -/
theorem test_rade_emit_plus :
    nextIs (step (holding 0x03 32 2 1 14 14 0x80004000)) (fun t =>
      decide (t.status = 0x000C ∧ t.out.read 14 = some { val := 1, otype := .int })) = true := by decide

/-- P2, slot 30: the 31st bit is the last of the word, bit 31 is not used. -/
theorem test_rade_emit_word_end :
    nextIs (step (holding 0x03 32 2 1 30 30 0x80004000)) (fun t =>
      decide (t.status = 0x000B ∧ t.j = 31 ∧ t.out.read 30 = some { val := 0xFFFFFFFF, otype := .int })) = true := by
  decide

/-- P7, SEEDDRAW: the word of two draws is the seed. -/
theorem test_bern64_seeddraw :
    nextIs (step (halves [0x8000, 0x4000] (midRun .seeddraw 0x04 2 1))) (fun t =>
      decide (t.status = 0x010A ∧ t.seed = 0x80004000 ∧ t.wordsDrawn = 0 ∧ t.hg = { drawn := 2, script := [] })) =
      true := by decide

/-- P7, FETCH: the first word of seed 0x80004000. -/
theorem test_bern64_fetch :
    nextIs (step { midRun .fetch 0x04 2 1 with g64 := 0x80004000, seed := 0x80004000, seedDrawn := true }) (fun t =>
      decide (t.status = 0x010C ∧ t.word = 0x4d203ab0511ecdf2 ∧ t.g64 = 0x9e3779b9ff4abc15 ∧ t.wordsDrawn = 1)) =
      true := by decide

/-- P4, ACCEPT: 31 bits a word, so 33 samples take two words. -/
theorem test_rade64_accept :
    nextIs (step (presented (record 0x0D 33 1))) (fun t =>
      decide (t.status = 0x000A ∧ t.n = 33 ∧ t.numWords = 2 ∧ t.seed = 1)) = true := by decide

/-- P4, slot 30: bit 30 of the first word (0x89025cc1 in its low half) is 0, and the word's other bits are discarded. -/
theorem test_rade64_emit_word_end :
    nextIs (step (holding 0x0D 33 2 1 30 30 0x910a2dec89025cc1)) (fun t =>
      decide (t.status = 0x000B ∧ t.out.read 30 = some { val := 0xFFFFFFFF, otype := .int })) = true := by decide

/-- Section 2.2: the first draw is the high half. -/
theorem test_next32_halves :
    nextIs (exec .next32 (halves [0x1234, 0xABCD, 7] State.reset)) (fun t =>
      decide (t.lastEvent = some (.next32 0x1234ABCD) ∧ t.hg = { drawn := 2, script := [7] })) = true := by decide

/-- Section 2.6: the first word of seed 0, and the wrap of G64. -/
theorem test_next64_seed_zero :
    nextIs (exec .next64 State.reset) (fun t =>
      decide (t.lastEvent = some (.next64 0xe220a8397b1dcdaf) ∧ t.g64 = 0x9e3779b97f4a7c15)) = true := by decide

theorem test_next64_wraps :
    nextIs (exec .next64 { State.reset with g64 := 0xffffffffffffffff }) (fun t =>
      decide (t.lastEvent = some (.next64 0xe4d971771b652c20) ∧ t.g64 = 0x9e3779b97f4a7c14)) = true := by decide

/-- R60: SEED64(0) leaves G64 = 0. -/
theorem test_seed64_zero :
    nextIs (exec (.seed64 0) { State.reset with g64 := 0xdeadbeef }) (fun t => decide (t.g64 = 0)) = true := by decide

/-- P5, commands 1 to 4: errors and the empty command. -/
theorem test_errors_and_zero :
    nextIs (step (presented (record 0x01 (-1) 0))) (fun t => decide (t.status = 0x0066 ∧ t.cfg = 0x01 ∧ t.n = 0)) = true ∧
    nextIs (step (presented (record 0x01 2147483648 0))) (fun t => decide (t.status = 0x00A6 ∧ t.n = 0)) = true ∧
    nextIs (step (presented (record 0x06 5 0))) (fun t => decide (t.status = 0x00E6 ∧ t.cfg = 0x06)) = true ∧
    nextIs (step (presented (record 0x01 0 0))) (fun t => decide (t.status = 0x0015 ∧ t.n = 0)) = true := by decide

/-- P8: RESET in EMIT. -/
theorem test_reset_in_emit :
    nextIs (step { holding 0x01 40 2 2 33 2 0xFFFFFFFF with resetIn := [true], out := [(0, { val := 1, otype := .int })] })
      (fun t => decide (t.status = 0x0000 ∧ t.n = 0 ∧ t.filled = 0 ∧ t.out.read 0 = some { val := 1, otype := .int })) =
      true := by decide

/-- Section 2.2, h(u): u = 0, 1/65536, 0.25, 0.5, 0.99999 and 0.999999999. -/
theorem test_half_words :
    halfWord 0 1 = 0 ∧ halfWord 1 65536 = 1 ∧ halfWord 1 4 = 16384 ∧ halfWord 1 2 = 32768 ∧
    halfWord 99999 100000 = 65535 ∧ halfWord 999999999 1000000000 = 65535 := by decide

/-- Section 2.3. -/
theorem test_word_counts :
    ceilWords 0 31 = 0 ∧ ceilWords 31 31 = 1 ∧ ceilWords 32 31 = 2 ∧ lastBits 32 31 = 1 ∧ lastBits 62 31 = 31 ∧
    ceilWords 2147483647 31 = 69273667 ∧ lastBits 2147483646 31 = 31 ∧ ceilWords 65 63 = 2 ∧ lastBits 65 63 = 2 ∧
    ceilWords 2147483647 63 = 34087043 ∧ lastBits 127 63 = 1 := by decide

/-- Section 2.6, mix alone. -/
theorem test_mix :
    mix 0 = 0 ∧ mix 1 = 0x5692161d100b05e5 ∧ mix 0xffffffffffffffff = 0xb4d055fcf2cbbd7b := by decide

/-! ### Witnesses: each statement's hypotheses can be met -/

theorem witness_CommandWordsDecode :
    (record 0x00 1 0).cw = 0x00 ∧ (record 0x0D 1 0).cw = 0x0D ∧
    (record 0xFF 1 0).cw ∉ [0x00#8, 0x01, 0x02, 0x03, 0x04, 0x05, 0x0C, 0x0D] := by decide

theorem witness_IllegalCommandWordTakesError :
    (∃ why, decodeCmd (record 0x06 5 9) = .illegal why) ∧ (∃ why, decodeCmd (record 0x0B 5 9) = .illegal why) ∧
    (∃ why, decodeCmd (record 0x10 5 9) = .illegal why) ∧ resetNow (presented (record 0x06 5 9)) = false ∧
    (presented (record 0x06 5 9)).phase.accepting = true ∧ (presented (record 0x06 5 9)).cmdPort = record 0x06 5 9 :: [] :=
  ⟨⟨_, rfl⟩, ⟨_, rfl⟩, ⟨_, rfl⟩, rfl, rfl, rfl⟩

theorem witness_DecodeOfEncode : (Instr.bern (2 ^ 63 - 1)).wf = true ∧ (Instr.rade64 (-(2 ^ 63)) (some 1)).wf = true := by
  decide

theorem witness_EncodeOfDecode :
    decode (.cmd (record 0x0C (-1) 7)) = .instr (.bern64 (-1) (some 7)) ∧
    decode (.port { wkind := 2, data := 7 }) = .instr (.seed64 7) := by decide

theorem witness_WordPortKinds :
    nextIs (step (midRun .seeddraw 0x04 2 1)) (fun t => decide (t.lastEvent = some (.next32 5))) = true ∧
    nextIs (step (midRun .fetch 0x01 3 1)) (fun t => decide (t.lastEvent = some (.next32 5))) = true ∧
    nextIs (step (midRun .fetch 0x0C 3 1)) (fun t => decide (t.lastEvent = some (.next64 0xe220a8397b1dcdaf))) = true ∧
    nextIs (step (midRun .seedload 0x0C 3 1)) (fun t => decide (t.lastEvent = some (.seed64 0))) = true := by decide

theorem witness_StepRunsPresentedCommand :
    resetNow (presented (record 0x01 3 0)) = false ∧ (presented (record 0x01 3 0)).phase.accepting = true ∧
    (presented (record 0x01 3 0)).cmdPort = record 0x01 3 0 :: [] ∧ decode (.cmd (record 0x01 3 0)) = .instr (.bern 3) := by
  decide

theorem witness_StepRunsLatchedCommand :
    resetNow (midRun .fetch 0x0D 33 2) = false ∧ (midRun .fetch 0x0D 33 2).phase.accepting = false ∧
    (midRun .fetch 0x0D 33 2).op = some .rade64 := by decide

theorem witness_StepRunsPortTransaction :
    (resetNow (midRun .seeddraw 0x04 2 1) = false ∧ (midRun .seeddraw 0x04 2 1).op = some .bern64) ∧
    nextIs (exec .next32 (sampled (midRun .seeddraw 0x04 2 1))) (fun u => decide (u.lastEvent = some (.next32 5))) = true ∧
    nextIs (exec (.seed64 0) (sampled (midRun .seedload 0x0C 2 1))) (fun _ => true) = true ∧
    (midRun .fetch 0x01 3 1).op = some .bern ∧ srcSel .bern = .src32 ∧
    nextIs (exec .next32 (sampled (midRun .fetch 0x01 3 1))) (fun u => decide (u.lastEvent = some (.next32 5))) = true ∧
    (midRun .fetch 0x0C 3 1).op = some .bern64 ∧ srcSel .bern64 = .src64 ∧
    nextIs (exec .next64 (sampled (midRun .fetch 0x0C 3 1))) (fun u =>
      decide (u.lastEvent = some (.next64 0xe220a8397b1dcdaf))) = true := by decide

theorem witness_PlacedCommandRunsNext :
    (8 ≤ 8 ∧ decodeTableWord 8 0x01 = some (.bern 0)) ∧ decodeTableWord 136 (0x00 + 2 * 2 ^ 8) = some (.rbits 2) := by
  decide

theorem witness_WaitingKeepsEverything :
    resetNow State.reset = false ∧ State.reset.phase.accepting = true ∧ State.reset.cmdPort = [] := by decide

theorem witness_AcceptReadsValidatesSetsUp :
    (((some 0 : Option Word64).isSome = true → takesSeed .bern64 = true) ∧ State.reset.phase.accepting = true) ∧
    ((0 : Int) ≤ 0 ∧ (0 : Int) ≤ 2147483647) ∧ ((0 : Int) ≤ 2147483647 ∧ (2147483647 : Int) ≤ 2147483647) ∧
    ((-1 : Int) < 0 ∨ 2147483647 < (-1 : Int)) ∧ ((2147483648 : Int) < 0 ∨ (2147483647 : Int) < 2147483648) ∧
    decodeCmd (record 0x08 5 9) = .illegal .seedNotTaken ∧
    ((midRun .fetch 0x01 3 1).phase.accepting = false ∧ nextIs (step (midRun .fetch 0x01 3 1)) (fun _ => true) = true) := by
  decide

theorem witness_InvalidCountIsReported :
    nextIs (step (presented (record 0x04 (-1) 0))) (fun t => decide (t.errcode.code = 1)) = true ∧
    nextIs (step (presented (record 0x04 2147483648 0))) (fun t => decide (t.errcode.code = 2)) = true ∧
    nextIs (step (presented (record 0x04 2147483647 0))) (fun t => decide (t.errcode.code = 0)) = true ∧
    nextIs (step (presented (record 0x04 0 0))) (fun t => decide (t.errcode.code = 0)) = true ∧
    (record 0x04 (-1) 0).nIn.toInt < 0 ∧ 2147483647 < (record 0x04 2147483648 0).nIn.toInt ∧
    decodeCmd (record 0x04 (-1) 0) = .instr (.bern64 (-1) none) ∧
    (resetNow (midRun .fetch 0x01 3 1) = false ∧ (midRun .fetch 0x01 3 1).phase.accepting = false) := by decide

theorem witness_ErrorEntry :
    nextIs (step (presented (record 0x05 (-1) 0))) (fun t => decide (t.phase = .error ∧ t.errcode = .nNegative)) = true ∧
    nextIs (step (presented (record 0x00 2147483648 0))) (fun t => decide (t.phase = .error ∧ t.errcode = .nTooLarge)) =
      true ∧
    nextIs (step (presented (record 0x0F 0 0))) (fun t => decide (t.phase = .error ∧ t.errcode = .illegalCmd)) = true := by
  decide

theorem witness_CheckOrder :
    (decodeCmd (record 0x06 (-1) 0) = .illegal .reservedOp ∧
      nextIs (step (presented (record 0x06 (-1) 0))) (fun t => decide (t.errcode = .illegalCmd)) = true) ∧
    (decodeCmd (record 0x01 (-1) 0) = .instr (.bern (-1)) ∧
      nextIs (step (presented (record 0x01 (-1) 0))) (fun t => decide (t.errcode = .nNegative)) = true) ∧
    ((midRun .seedload 0x0C 1 1).phase.accepting = false ∧
      nextIs (step (midRun .seedload 0x0C 1 1)) (fun _ => true) = true) := by decide

theorem witness_FailedCommandLeavesNoTrace :
    nextIs (step (presented (record 0x04 (-1) 0))) (fun t => decide (t.phase = .error)) = true := by decide

theorem witness_UnansweredRequestIsStuckNotFaulted :
    ((midRun .fetch 0x01 3 1).phase.accepting = false ∧ nextIs (step (midRun .fetch 0x01 3 1)) (fun _ => true) = true) ∧
    ({ midRun .seeddraw 0x04 3 1 with src32 := .words [] }.op = some .bern64) ∧
    ({ midRun .fetch 0x01 3 1 with src32 := .words [] }.op = some .bern ∧ srcSel .bern = .src32) ∧
    ({ midRun .fetch 0x0D 3 1 with src64 := .words [] }.op = some .rade64 ∧ srcSel .rade64 = .src64) ∧
    (∀ b ∈ (midRun .fetch 0x01 3 1).resetIn, b = false) ∧
    { midRun .fetch 0x01 3 1 with resetIn := [true, false] }.resetIn = true :: [false] := by decide

theorem witness_ZeroCountDrawsNothing :
    ((none : Option Word64).isSome = true → takesSeed .rbits = true) ∧
    ((some 7 : Option Word64).isSome = true → takesSeed .rade64 = true) ∧ State.reset.phase.accepting = true := by decide

theorem witness_NoStateAcrossCommands :
    (Instr.bern 3 = Instr.ofCommand .bern 3 none ∧ State.reset.phase.accepting = true ∧
      (midRun .done 0x0D 33 2).phase.accepting = true) ∧
    ((midRun .fetch 0x01 3 1).phase ≠ .emit ∧ nextIs (step (midRun .fetch 0x01 3 1)) (fun _ => true) = true) := by decide

theorem witness_SeedDrawStepDrawsDefaultSeed :
    (takesSeed .rade64 = true ∧ (midRun .seeddraw 0x05 2 1).phase = .seeddraw ∧
      cwOp (midRun .seeddraw 0x05 2 1).cfg = opCode .rade64) ∧
    nextIs (exec .next32 (midRun .seeddraw 0x05 2 1)) (fun u => decide (u.lastEvent = some (.next32 5))) = true ∧
    nextIs (exec .next32 (halves [0x8000, 0x4000] (midRun .seeddraw 0x05 2 1))) (fun u =>
      decide (u.lastEvent = some (.next32 0x80004000))) = true ∧
    nextIs (step (presented (record 0x04 1 0))) (fun t => decide (t.phase = .seeddraw)) = true ∧
    (presented (record 0x04 1 0)).phase ≠ .seeddraw := by decide

theorem witness_SeedLoadStepSeedsSource :
    ((midRun .seedload 0x0C 2 1).phase = .seedload ∧ cwOp (midRun .seedload 0x0C 2 1).cfg = opCode .bern64) ∧
    nextIs (step (midRun .seedload 0x0C 2 1)) (fun t =>
      decide (t.phase = .fetch ∧ t.op.map takesSeed = some true)) = true := by decide

theorem witness_FetchStepReadsOneWord :
    ((midRun .fetch 0x00 2 2).phase = .fetch ∧ cwOp (midRun .fetch 0x00 2 2).cfg = opCode .rbits ∧
      srcSel .rbits = .src32 ∧
      nextIs (exec .next32 (midRun .fetch 0x00 2 2)) (fun u => decide (u.lastEvent = some (.next32 5))) = true) ∧
    (cwOp (midRun .fetch 0x0D 2 1).cfg = opCode .rade64 ∧ srcSel .rade64 = .src64 ∧
      nextIs (exec .next64 (midRun .fetch 0x0D 2 1)) (fun u =>
        decide (u.lastEvent = some (.next64 0xe220a8397b1dcdaf))) = true) := by decide

/-- R26 holds of P1's FETCH. -/
theorem witness_wordInv_fetch : wordInv (midRun .fetch 0x01 3 1) ∧ (midRun .fetch 0x01 3 1).op = some .bern := by
  refine ⟨⟨rfl, by decide, .bern, false, by decide, rfl, by decide, ?_⟩, rfl⟩
  exact ⟨rfl, by decide, rfl, by decide, rfl⟩

/-- R26 holds of P2's EMIT of slot 30, the last of its word. -/
theorem witness_wordInv_emit :
    wordInv (holding 0x03 32 2 1 30 30 0x80004000) ∧ (holding 0x03 32 2 1 30 30 0x80004000).op = some .rade := by
  refine ⟨⟨rfl, by decide, .rade, false, by decide, rfl, by decide, ?_⟩, rfl⟩
  exact ⟨rfl, by decide, by decide, by decide, by decide, rfl⟩

/-- R26 holds of RBITS in EMIT and of a seedless 64-bit command in SEEDDRAW. -/
theorem witness_wordInv_other :
    wordInv (holding 0x00 2 2 1 0 0 0x80004000) ∧ wordInv (midRun .seeddraw 0x05 2 1) := by
  refine ⟨⟨rfl, by decide, .rbits, false, by decide, rfl, by decide, ?_⟩,
    ⟨rfl, by decide, .rade64, false, by decide, rfl, by decide, ?_⟩⟩
  · exact ⟨rfl, by decide, by decide, by decide, rfl, rfl⟩
  · exact ⟨rfl, rfl, rfl, by decide, rfl, rfl, rfl⟩

theorem witness_EmitStepWritesOneBit :
    isRaw .rade = false ∧ (holding 0x03 32 2 1 30 30 0x80004000).phase = .emit ∧
    cwOp (holding 0x03 32 2 1 30 30 0x80004000).cfg = opCode .rade ∧
    (0xFFFFFFFF#32 = if (holding 0x03 32 2 1 30 30 0x80004000).word.getLsbD 30 then 1#32
      else if Op.rade = .rade ∨ Op.rade = .rade64 then 0xFFFFFFFF#32 else 0#32) := by decide

theorem witness_EmitStepWritesRawWord :
    (holding 0x00 2 2 1 0 0 0x80004000).phase = .emit ∧ cwOp (holding 0x00 2 2 1 0 0 0x80004000).cfg = 0 := by decide

theorem witness_PhaseTransitions :
    nextIs (step { State.reset with resetIn := [true] }) (fun t => decide (t.phase = .idle)) = true ∧
    nextIs (step State.reset) (fun t => decide (t.phase = .idle)) = true ∧
    nextIs (step (presented (record 0x01 (-1) 0))) (fun t => decide (t.phase = .error)) = true ∧
    nextIs (step (presented (record 0x01 0 0))) (fun t => decide (t.phase = .done)) = true ∧
    nextIs (step (presented (record 0x05 1 0))) (fun t => decide (t.phase = .seeddraw)) = true ∧
    nextIs (step (presented (record 0x0D 2147483647 0))) (fun t => decide (t.phase = .seedload)) = true ∧
    nextIs (step (midRun .seeddraw 0x04 2 1)) (fun t => decide (t.phase = .seedload)) = true ∧
    nextIs (step (midRun .seedload 0x04 2 1)) (fun t => decide (t.phase = .fetch)) = true ∧
    nextIs (step (midRun .fetch 0x04 2 1)) (fun t => decide (t.phase = .emit)) = true ∧
    nextIs (step (holding 0x01 31 1 1 30 30 0)) (fun t => decide (t.phase = .done)) = true ∧
    nextIs (step (holding 0x01 32 2 1 30 30 0)) (fun t => decide (t.phase = .fetch)) = true ∧
    nextIs (step (holding 0x01 32 2 1 29 29 0)) (fun t => decide (t.phase = .emit)) = true := by decide

/-- P1's FETCH: the invariants of the statements that keep them hold, and the step has a next state. -/
theorem witness_invariants_meet :
    wordInv (midRun .fetch 0x01 3 1) ∧ slotsFilled (midRun .fetch 0x01 3 1) ∧ seedStream (midRun .fetch 0x01 3 1) ∧
    wordFits (midRun .fetch 0x01 3 1) ∧ (midRun .fetch 0x01 3 1).out.wf ∧ ∃ t, step (midRun .fetch 0x01 3 1) = .next t :=
  ⟨witness_wordInv_fetch.1, fun _ _ i h => absurd h (Nat.not_lt_zero i), fun _ h => absurd h (by decide),
    fun _ _ h => absurd h (by decide), List.Pairwise.nil, ⟨_, rfl⟩⟩

/-- A seeded BERN64 in FETCH, where the stream's invariant says something. -/
theorem witness_SeededStreamKept :
    wordInv (midRun .fetch 0x0C 2 1) ∧ seedStream (midRun .fetch 0x0C 2 1) ∧
    (midRun .fetch 0x0C 2 1).op.map takesSeed = some true ∧ ∃ t, step (midRun .fetch 0x0C 2 1) = .next t := by
  refine ⟨⟨rfl, by decide, .bern64, true, by decide, rfl, by decide, ?_⟩, fun _ _ => ⟨fun _ => by decide,
    fun h => absurd h (by decide)⟩, rfl, ⟨_, rfl⟩⟩
  exact ⟨rfl, by decide, rfl, by decide, rfl⟩

/-- A word held in EMIT that fits its source (the bound is not vacuous there), and a written slot. -/
theorem witness_HeldWordFitsItsSource :
    wordFits (holding 0x03 32 2 1 30 30 0x80004000) ∧
    nextIs (step (holding 0x03 32 2 1 30 30 0x80004000)) (fun _ => true) = true := by
  refine ⟨fun op h _ => ?_, by decide⟩
  have e : op = .rade := Option.some.inj (h.symm.trans witness_wordInv_emit.2)
  subst e
  decide

theorem witness_NoOverRead :
    nextIs (step (midRun .fetch 0x01 3 1)) (fun t =>
      decide (t.lastEvent = some (.next32 5) ∧ (midRun .fetch 0x01 3 1).phase ≠ .seeddraw)) = true ∧
    nextIs (step (midRun .fetch 0x0C 2 1)) (fun t => decide (t.lastEvent = some (.next64 0xe220a8397b1dcdaf))) = true := by
  decide

theorem witness_WordCountIsCeiling :
    1 ≤ 31 ∧ 0 < 2147483647 ∧ (2147483647#32).toNat ≤ 2147483647 ∧ (63 = 31 ∨ 63 = 63) := by decide

theorem witness_UnusedBitsDoNotMatter :
    isRaw .rade = false ∧ (holding 0x03 32 2 1 30 30 0x80004000).phase = .emit ∧
    (∀ k, k < usableBits .rade → (0x00004000 : Word64).getLsbD k = (0x80004000 : Word64).getLsbD k) ∧
    nextIs (exec (.rade 32) (holding 0x03 32 2 1 30 30 0x80004000)) (fun _ => true) = true := by decide

theorem witness_OutputValues :
    (holding 0x02 3 1 1 1 1 5).phase = .emit ∧ cwOp (holding 0x02 3 1 1 1 1 5).cfg = opCode .logi ∧
    cwOp (holding 0x0D 33 2 1 30 30 0).cfg = opCode .rade64 ∧ cwOp (holding 0x00 2 2 1 0 0 9).cfg = opCode .rbits := by
  decide

theorem witness_LogiIsBernRetyped_RadeIsTwiceBernLessOne :
    (State.reset.phase.accepting = true ∧ nextIs (exec (.bern 3) State.reset) (fun _ => true) = true) ∧
    ((holding 0x01 3 1 1 1 1 5).cfg = cwOf .bern false ∧
      nextIs (exec (.bern 3) (holding 0x01 3 1 1 1 1 5)) (fun _ => true) = true) := by decide

theorem witness_LowHalfIsUnpackedFirst :
    ((holding 0x01 32 2 1 14 14 0x80004000).phase = .emit ∧ (holding 0x01 32 2 1 14 14 0x80004000).cfg = cwOf .bern false ∧
      (holding 0x01 32 2 1 14 14 0x80004000).j.toNat < 31 ∧
      (holding 0x01 32 2 1 14 14 0x80004000).word = (wordOfHalves 0x8000 0x4000).setWidth 64) ∧
    (holding 0x01 32 2 1 30 30 0x80004000).j.toNat < 31 := by decide

theorem witness_SlotWriteHolds :
    (resetNow (holding 0x01 3 1 1 1 1 5) = false ∧ (holding 0x01 3 1 1 1 1 5).op = some .bern) ∧
    nextIs (step (holding 0x01 3 1 1 1 1 5)) (fun t =>
      decide (t.lastEvent = some (.slotWrite 1 { val := 0, otype := .int }))) = true ∧
    nextIs (step (midRun .fetch 0x01 3 1)) (fun t => decide (t.lastEvent = some (.next32 5))) = true := by decide

theorem witness_sources :
    State.reset.src32 = .unif ∧ State.reset.src64 = .mix ∧ (midRun .fetch 0x01 3 1).src32 = .const 5 ∧
    { State.reset with src32 := .words [1, 2] }.src32 = .words (1 :: [2]) ∧
    { State.reset with src64 := .const 9 }.src64 = .const 9 ∧
    { State.reset with src64 := .words [3] }.src64 = .words (3 :: []) := by decide

theorem witness_DrawsAreCounted :
    nextIs (step (halves [0x8000, 0x4000] (midRun .fetch 0x01 3 1))) (fun t => decide (t.hg.drawn = 2)) = true := by decide

theorem witness_HalfWordIsFloor : 65535 < 65536 ∧ 0 < 1 := by decide

theorem witness_SeededCommandIgnoresHostGenerator :
    takesSeed .bern64 = true ∧ (midRun .fetch 0x0C 2 1).cfg = cwOf .bern64 true ∧ wordInv (midRun .fetch 0x0C 2 1) ∧
    (midRun .fetch 0x0C 2 1).phase.accepting = false ∧ ∃ t, step (midRun .fetch 0x0C 2 1) = .next t :=
  ⟨rfl, rfl, witness_SeededStreamKept.1, rfl, ⟨_, rfl⟩⟩

theorem witness_ResetFromAnyPhase_ResetValues :
    { midRun .emit 0x01 3 1 with resetIn := [true] }.resetIn = true :: [] ∧
    (resetNow (midRun .emit 0x01 3 1) = false ∧ (midRun .emit 0x01 3 1).phase.accepting = false ∧
      nextIs (step (midRun .emit 0x01 3 1)) (fun _ => true) = true) := by decide

theorem witness_BusyIgnoresCommandPort :
    { midRun .fetch 0x01 3 1 with cmdPort := [record 0x00 1 0] }.busy = true ∧
    nextIs (step { midRun .fetch 0x01 3 1 with cmdPort := [record 0x00 1 0] }) (fun t =>
      decide (t.cmdPort = [record 0x00 1 0])) = true := by decide

theorem witness_CommandFrame :
    nextIs (exec (Instr.ofCommand .bern 3 none) State.reset) (fun _ => true) = true ∧
    nextIs (exec (Instr.ofCommand .bern 3 none) (midRun .fetch 0x01 3 1)) (fun _ => true) = true ∧
    nextIs (exec (Instr.ofCommand .bern64 2 none) (midRun .seeddraw 0x04 2 1)) (fun _ => true) = true ∧
    nextIs (exec (Instr.ofCommand .bern64 2 (some 0)) (midRun .seedload 0x0C 2 1)) (fun _ => true) = true ∧
    nextIs (exec (Instr.ofCommand .rade 32 none) (holding 0x03 32 2 1 30 30 0x80004000)) (fun _ => true) = true := by
  decide

theorem witness_PortTransactionFrame :
    nextIs (exec .next32 (midRun .fetch 0x01 3 1)) (fun _ => true) = true ∧
    nextIs (exec .next64 State.reset) (fun _ => true) = true ∧
    nextIs (exec (.seed64 5) State.reset) (fun _ => true) = true := by decide

/-- P1's command, from its ACCEPT. -/
theorem witness_RunEqualsFunction :
    (presented (record 0x01 3 0)).phase.accepting = true ∧
    (presented (record 0x01 3 0)).cmdPort = record 0x01 3 0 :: [] ∧
    decodeCmd (record 0x01 3 0) = .instr (Instr.ofCommand .bern 3 none) ∧
    ((none : Option Word64).isSome = true → takesSeed .bern = true) ∧
    (∀ b ∈ (presented (record 0x01 3 0)).resetIn, b = false) ∧
    (runCommand .bern 3 none (presented (record 0x01 3 0))).isSome = true ∧
    (resetNow (presented (record 0x06 3 0)) = false ∧ decodeCmd (record 0x06 3 0) = .illegal .reservedOp) := by decide

theorem witness_CommandGivesSamples :
    ((0 : Int) ≤ 3 ∧ (3 : Int) ≤ 2147483647) ∧ (seedSource .bern none (presented (record 0x01 3 0))).isSome = true ∧
    ((readWords (srcSel .bern) ((3 + 31 - 1) / 31) (presented (record 0x01 3 0))).map Prod.fst) = some [5] ∧
    ((seedSource .bern64 (some 7) (presented (record 0x0C 0 7))).map Prod.fst) = some 7 := by decide

theorem witness_OtherCommandHasNoEffectWhileBusy :
    (midRun .fetch 0x01 3 1).phase.accepting = false ∧ cwOp (midRun .fetch 0x01 3 1).cfg ≠ opCode .rade := by decide

end Sys2Proof.Tests
end

section
/-! PROOFS. The status word and the reset values of spec/10_state.md (R20, R21, R27), what a step does to OUT, and the
word-consumption invariant (R26), kept by every step. -/

namespace Sys2Proof.Machine

open Sys2Proof

/-! ### Status and reset -/

/-- Settles O47, phase by phase. -/
theorem oneStatusAtATime : Obligations.OneStatusAtATime := by
  intro s
  simp only [State.busy, State.doneFlag, State.errFlag]
  cases s.phase <;> decide

/-- The one-bit fields of STATUS. -/
theorem status_getLsbD (s : State) :
    s.status.getLsbD 3 = s.busy ∧ s.status.getLsbD 4 = s.doneFlag ∧ s.status.getLsbD 5 = s.errFlag ∧
      s.status.getLsbD 8 = s.seedDrawn := by
  refine ⟨?_, ?_, ?_, ?_⟩ <;>
    simp [-BitVec.getLsbD_eq_getElem, State.status, BitVec.getLsbD_append (m := 3), BitVec.getLsbD_append (m := 2),
      BitVec.getLsbD_append (m := 1)]

/-- The wider fields of STATUS: every field below the wanted one is shifted out. -/
theorem status_extractLsb' (s : State) :
    s.status.extractLsb' 0 3 = s.phase.code ∧ s.status.extractLsb' 6 2 = s.errcode.code ∧
      s.status.extractLsb' 9 7 = 0 := by
  unfold State.status
  refine ⟨BitVec.extractLsb'_append_eq_right, ?_, ?_⟩
  · iterate 4 rw [BitVec.extractLsb'_append_eq_of_le (by decide)]
    exact BitVec.extractLsb'_append_eq_right
  · iterate 6 rw [BitVec.extractLsb'_append_eq_of_le (by decide)]
    decide

/-- Settles O48, field by field. -/
theorem statusPacking : Obligations.StatusPacking := by
  intro s
  obtain ⟨hbusy, hdone, herr, hseed⟩ := status_getLsbD s
  obtain ⟨hphase, hcode, hzero⟩ := status_extractLsb' s
  exact ⟨hphase, hbusy, hdone, herr, hcode, hseed, hzero⟩

theorem step_of_reset {s : State} (h : resetNow s = true) : step s = .next (resetStep (sampled s)) := by
  simp [step, turn, h]

theorem status_resetStep (s : State) : (resetStep s).status = 0 := by
  show State.reset.status = 0
  decide

/-- Settles O51: a turn with reset asserted is `resetStep`; the first state is closed. -/
theorem resetValues : Obligations.ResetValues := by
  refine ⟨fun s rest h => ?_, by decide⟩
  have hr : resetNow s = true := by simp [resetNow, h]
  exact ⟨_, step_of_reset hr, rfl, rfl, rfl, rfl, rfl, rfl, rfl, rfl, rfl, rfl, status_resetStep _, rfl, rfl, rfl, rfl,
    rfl, rfl⟩

/-! ### The word count (41_unpack_and_map.md R71) -/

theorem ceilWords_eq_ceilDiv (n w : Nat) : ceilWords n w = n ⌈/⌉ w := rfl

theorem lt_ceilWords_iff {n w k : Nat} (hw : 0 < w) : k < ceilWords n w ↔ k * w < n := by
  rw [ceilWords_eq_ceilDiv, ← not_le, ceilDiv_le_iff_le_mul hw, not_le, Nat.mul_comm]

theorem usableBits_bounds {op : Op} (h : isRaw op = false) : 0 < usableBits op ∧ usableBits op ≤ 63 := by
  revert h
  cases op <;> decide

theorem isRaw_of_takesSeed {op : Op} (h : takesSeed op = true) : isRaw op = false := by
  revert h
  cases op <;> decide

theorem plannedWords_of_raw {op : Op} (h : isRaw op = true) (n : Nat) : plannedWords op n = n := if_pos h

theorem plannedWords_of_not_raw {op : Op} (h : isRaw op = false) (n : Nat) :
    plannedWords op n = ceilWords n (usableBits op) := by
  simp [plannedWords, h]

/-- Each planned word gives at least one slot. -/
theorem plannedWords_le (op : Op) (n : Nat) : plannedWords op n ≤ n := by
  cases h : isRaw op with
  | true => exact (plannedWords_of_raw h n).le
  | false =>
    have hw := (usableBits_bounds h).1
    rw [plannedWords_of_not_raw h, ← not_lt, lt_ceilWords_iff hw, not_lt]
    exact Nat.le_mul_of_pos_right n hw

@[simp] theorem plannedWords_zero (op : Op) : plannedWords op 0 = 0 := Nat.le_zero.1 (plannedWords_le op 0)

theorem plannedWords_pos {n : Nat} (op : Op) (hn : 0 < n) : 0 < plannedWords op n := by
  cases h : isRaw op with
  | true => rwa [plannedWords_of_raw h]
  | false => rwa [plannedWords_of_not_raw h, lt_ceilWords_iff (usableBits_bounds h).1, Nat.zero_mul]

/-! ### Which registers and slots the steps write -/

theorem accept_output (op : Op) (n : Int) (seed : Option Word64) (s : State) :
    (accept op n seed s).out = s.out ∧ (accept op n seed s).filled = 0 := by
  obtain ⟨-, h⟩ | ⟨-, h⟩ | ⟨-, -, h⟩ := accept_cases op n seed s
  all_goals rw [h]; exact ⟨rfl, rfl⟩

/-- What ACCEPT latched and set up stays until the next ACCEPT (R10 to R12, R19). -/
theorem busyStep_keeps_command {op : Op} {s : State} (ha : s.phase.accepting = false) :
    (busyStep op s).cfg = s.cfg ∧ (busyStep op s).n = s.n ∧ (busyStep op s).numWords = s.numWords ∧
      (busyStep op s).errcode = s.errcode := by
  obtain ⟨-, -, h⟩ | ⟨-, -, _, _, _, -, h⟩ | ⟨-, h⟩ | ⟨-, -, -, h⟩ | ⟨-, -, -, h⟩ | ⟨-, -, -, _, _, _, -, h⟩ |
    ⟨-, -, -, _, _, _, -, h⟩ | ⟨-, h⟩ := busyStep_cases (op := op) ha
  all_goals rw [h]; exact ⟨rfl, rfl, rfl, rfl⟩

/-- Only EMIT writes a slot and counts it (R79, R80). -/
theorem busyStep_keeps_output {op : Op} {s : State} (ha : s.phase.accepting = false) (he : s.phase ≠ .emit) :
    (busyStep op s).out = s.out ∧ (busyStep op s).filled = s.filled := by
  obtain ⟨-, -, h⟩ | ⟨-, -, _, _, _, -, h⟩ | ⟨-, h⟩ | ⟨-, -, -, h⟩ | ⟨-, -, -, h⟩ | ⟨-, -, -, _, _, _, -, h⟩ |
    ⟨-, -, -, _, _, _, -, h⟩ | ⟨hp, -⟩ := busyStep_cases (op := op) ha
  case inr.inr.inr.inr.inr.inr.inr => exact absurd hp he
  all_goals rw [h]; exact ⟨rfl, rfl⟩

theorem busyStep_of_emit {op : Op} {s : State} (hp : s.phase = .emit) : busyStep op s = emitStep op s := by
  simp only [busyStep, hp]

@[simp] theorem emitStep_out (op : Op) (s : State) :
    (emitStep op s).out = s.out.write s.filled.toNat (slotOf op s.word s.j.toNat) := rfl

@[simp] theorem emitStep_filled (op : Op) (s : State) : (emitStep op s).filled = s.filled + 1 := rfl

/-- What any step does to OUT: nothing, or one write at FILLED, in EMIT (20_memory.md R31). -/
theorem step_out_cases {s t : State} (h : step s = .next t) :
    t.out = s.out ∨ (s.phase = .emit ∧ ∃ v, t.out = s.out.write s.filled.toNat v) := by
  obtain ⟨-, rfl⟩ | ⟨-, -, hacc⟩ | ⟨-, ha, op, -, rfl⟩ := step_cases h
  · exact .inl rfl
  · obtain ⟨-, rfl⟩ | ⟨r, rest, -, ⟨why, -, rfl⟩ | ⟨op, seed, -, -, -, rfl⟩⟩ := hacc
    · exact .inl rfl
    · exact .inl rfl
    · exact .inl (accept_output ..).1
  · by_cases he : s.phase = .emit
    · exact .inr ⟨he, _, by rw [busyStep_of_emit (s := sampled s) he]; rfl⟩
    · exact .inl (busyStep_keeps_output (s := sampled s) ha he).1

theorem step_read_other {s t : State} {a : Nat} (h : step s = .next t) (ha : s.phase ≠ .emit ∨ a ≠ s.filled.toNat) :
    t.out.read a = s.out.read a := by
  obtain hout | ⟨hp, v, hout⟩ := step_out_cases h
  · rw [hout]
  · rw [hout, Memory.read_write_other _ _ _ _ (ha.resolve_left (not_not_intro hp))]

/-! ### The invariant of a command under way -/

/-- What `wordInv` says of a command that was accepted, its operation and its SEEDV named. -/
structure CommandInv (op : Op) (v : Bool) (s : State) : Prop where
  errcode : s.errcode = .none
  count : s.n.toNat ≤ 2147483647
  seedv : v = true → takesSeed op = true
  cfg : s.cfg = cwOf op v
  numWords : s.numWords.toNat = plannedWords op s.n.toNat
  table : consumption op s

theorem wordInv_iff_commandInv {s : State} (hi : s.phase ≠ .idle) (he : s.phase ≠ .error) :
    wordInv s ↔ ∃ op v, CommandInv op v s := by
  have hiff : (∃ op v, CommandInv op v s) ↔ s.errcode = .none ∧ s.n.toNat ≤ 2147483647 ∧
      ∃ op v, (v = true → takesSeed op = true) ∧ s.cfg = cwOf op v ∧
        s.numWords.toNat = plannedWords op s.n.toNat ∧ consumption op s :=
    ⟨fun ⟨op, v, herr, hn, hv, hcfg, hnw, ht⟩ => ⟨herr, hn, op, v, hv, hcfg, hnw, ht⟩,
      fun ⟨herr, hn, op, v, hv, hcfg, hnw, ht⟩ => ⟨op, v, herr, hn, hv, hcfg, hnw, ht⟩⟩
  rw [hiff]
  cases hp : s.phase
  case idle => exact absurd hp hi
  case error => exact absurd hp he
  all_goals simp only [wordInv, hp]

theorem CommandInv.wordInv {op : Op} {v : Bool} {s : State} (h : CommandInv op v s) : wordInv s := by
  have ht := h.table
  refine (wordInv_iff_commandInv ?_ ?_).2 ⟨op, v, h⟩ <;> intro hp <;> simp [consumption, hp] at ht

theorem CommandInv.of_wordInv {op : Op} {s : State} (h : Machine.wordInv s) (ha : s.phase.accepting = false)
    (ho : s.op = some op) : ∃ v, CommandInv op v s := by
  have hi : s.phase ≠ .idle := fun hp => by simp [hp, Phase.accepting, Phase.busy] at ha
  have he : s.phase ≠ .error := fun hp => by simp [hp, Phase.accepting, Phase.busy] at ha
  obtain ⟨op', v, hc⟩ := (wordInv_iff_commandInv hi he).1 h
  have hop : op' = op := by simpa [State.op, hc.cfg] using ho
  exact ⟨v, hop ▸ hc⟩

theorem CommandInv.filled_lt {op : Op} {v : Bool} {s : State} (h : CommandInv op v s) (hp : s.phase = .emit) :
    s.filled.toNat < s.n.toNat := by
  have htab := h.table
  simp only [consumption, hp] at htab
  exact htab.2.1

/-! ### R26's table, busy phase by busy phase -/

theorem CommandInv.seedDrawStep_table {op : Op} {v : Bool} {s : State} (h : CommandInv op v s)
    (hp : s.phase = .seeddraw) : consumption op (seedDrawStep s) := by
  obtain ⟨-, hw⟩ | ⟨w, t, ht, hs⟩ := seedDrawStep_cases s
  · rw [hw]
    exact h.table
  · have htab := h.table
    simp only [consumption, hp] at htab
    obtain ⟨hts, hv, -, hn, hf, hd, hj⟩ := htab
    rw [hs, next32_frame ht]
    exact ⟨hts, by simp [hv], hn, hf, hd, hj⟩

theorem CommandInv.seedLoadStep_table {op : Op} {v : Bool} {s : State} (h : CommandInv op v s)
    (hp : s.phase = .seedload) : consumption op (seedLoadStep s) := by
  have htab := h.table
  simp only [consumption, hp] at htab
  obtain ⟨hts, hsd, hn, hf, hd, hj⟩ := htab
  have hnw : 0 < s.numWords.toNat := h.numWords ▸ plannedWords_pos op hn
  simp [consumption, seedLoadStep, hts, isRaw_of_takesSeed hts, hsd, hf, hd, hj, hn, hnw]

/-- A counter below another one does not wrap when it is incremented. -/
theorem toNat_succ_of_lt {a b : Word32} (h : a.toNat < b.toNat) : (a + 1).toNat = a.toNat + 1 := by bv_omega

theorem CommandInv.fetchStep_table {op : Op} {v : Bool} {s : State} (h : CommandInv op v s)
    (hp : s.phase = .fetch) : consumption op (fetchStep op s) := by
  obtain ⟨-, hw⟩ | ⟨w, t, ht, hs⟩ := fetchStep_cases op s
  · rw [hw]
    exact h.table
  · have htab := h.table
    simp only [consumption, hp] at htab
    obtain ⟨hsd, hf, htab⟩ := htab
    rw [hs, readWord_frame ht]
    cases hraw : isRaw op with
    | true =>
      have hnw := h.numWords.trans (plannedWords_of_raw hraw _)
      simp only [hraw, if_true] at htab
      obtain ⟨hfd, -⟩ := htab
      simp only [consumption, hraw, if_true, toNat_succ_of_lt (hfd ▸ hf)]
      exact ⟨hsd, hf, by omega, by omega, by omega, rfl⟩
    | false =>
      simp only [hraw, Bool.false_eq_true, if_false] at htab
      obtain ⟨hfd, hdn, -⟩ := htab
      simp only [consumption, hraw, Bool.false_eq_true, if_false, toNat_succ_of_lt hdn]
      exact ⟨hsd, hf, by omega, by omega, (usableBits_bounds hraw).1, hfd⟩

/-- Where EMIT goes: the test for the last slot, then the test for the word's last bit (R79, R80, R82). -/
theorem emitPhase_cases (op : Op) {s : State} (hf : s.filled.toNat < s.n.toNat) :
    (s.filled.toNat + 1 = s.n.toNat ∧ emitPhase op s = .done) ∨
    (s.filled.toNat + 1 < s.n.toNat ∧ (isRaw op = true ∨ s.j.toNat + 1 = usableBits op) ∧
      emitPhase op s = .fetch) ∨
    (s.filled.toNat + 1 < s.n.toNat ∧ isRaw op = false ∧ s.j.toNat + 1 ≠ usableBits op ∧
      emitPhase op s = .emit) := by
  have hlast : s.filled + 1 = s.n ↔ s.filled.toNat + 1 = s.n.toNat := by
    rw [← toNat_succ_of_lt hf, BitVec.toNat_inj]
  unfold emitPhase
  split_ifs with hl hr hj <;> rw [hlast] at hl
  · exact .inl ⟨hl, rfl⟩
  · exact .inr (.inl ⟨by omega, .inl hr, rfl⟩)
  · exact .inr (.inl ⟨by omega, .inr hj, rfl⟩)
  · exact .inr (.inr ⟨by omega, Bool.eq_false_of_not_eq_true hr, hj, rfl⟩)

/-- EMIT of RBITS: each word is one slot (R80). -/
theorem CommandInv.emitStep_table_of_raw {op : Op} {v : Bool} {s : State} (h : CommandInv op v s)
    (hp : s.phase = .emit) (hraw : isRaw op = true) : consumption op (emitStep op s) := by
  have htab := h.table
  simp only [consumption, hp, hraw, if_true] at htab
  obtain ⟨hsd, hf, hd, -, hfd, hj⟩ := htab
  have hnw := h.numWords.trans (plannedWords_of_raw hraw _)
  obtain ⟨hl, hph⟩ | ⟨hl, -, hph⟩ | ⟨-, hr, -⟩ := emitPhase_cases op hf
  · have hn : s.n.toNat ≠ 0 := by omega
    have hall : s.wordsDrawn.toNat = s.numWords.toNat := by omega
    simp only [consumption, emitStep, hph, hraw, if_true, slotWrite_n, hn, if_false, toNat_succ_of_lt hf]
    exact ⟨hl, hall, hsd, hj⟩
  · simp only [consumption, emitStep, hph, hraw, if_true, slotWrite_n, slotWrite_wordsDrawn, toNat_succ_of_lt hf]
    exact ⟨hsd, hl, by omega, hj⟩
  · exact absurd hraw (by simp [hr])

/-- EMIT of the unpacking commands (R79). The words read so far hold WORDS_DRAWN * W bits, so the last slot falls in the
last planned word, and a word that ends before the last slot leaves one to read. -/
theorem CommandInv.emitStep_table_of_bits {op : Op} {v : Bool} {s : State} (h : CommandInv op v s)
    (hp : s.phase = .emit) (hraw : isRaw op = false) : consumption op (emitStep op s) := by
  have htab := h.table
  simp only [consumption, hp, hraw, Bool.false_eq_true, if_false] at htab
  obtain ⟨hsd, hf, hd, hdn, hj, hfd⟩ := htab
  have hnw := h.numWords.trans (plannedWords_of_not_raw hraw _)
  have ⟨hW, hW63⟩ := usableBits_bounds hraw
  have hbit : (s.j + 1).toNat = s.j.toNat + 1 := by bv_omega
  have hbits : s.wordsDrawn.toNat * usableBits op = (s.wordsDrawn.toNat - 1) * usableBits op + usableBits op := by
    rw [← Nat.succ_mul, Nat.succ_eq_add_one, Nat.sub_add_cancel hd]
  have hmore := lt_ceilWords_iff (n := s.n.toNat) (k := s.wordsDrawn.toNat) hW
  obtain ⟨hl, hph⟩ | ⟨hl, hje, hph⟩ | ⟨hl, -, hjl, hph⟩ := emitPhase_cases op hf
  · have hn : s.n.toNat ≠ 0 := by omega
    have hall : s.wordsDrawn.toNat = s.numWords.toNat := by omega
    have hlb : lastBits s.n.toNat (usableBits op) = s.j.toNat + 1 := by
      rw [lastBits, ← hnw, ← hall]
      omega
    simp only [consumption, emitStep, hph, hraw, Bool.false_eq_true, if_false, slotWrite_n, hn, toNat_succ_of_lt hf,
      hbit, hlb]
    exact ⟨hl, hall, hsd, trivial, by omega, by omega⟩
  · have hje : s.j.toNat + 1 = usableBits op := hje.resolve_left (by simp [hraw])
    have hd0 : s.wordsDrawn.toNat ≠ 0 := by omega
    simp only [consumption, emitStep, hph, hraw, Bool.false_eq_true, if_false, slotWrite_n, slotWrite_wordsDrawn,
      slotWrite_numWords, hd0, toNat_succ_of_lt hf, hbit]
    exact ⟨hsd, hl, by omega, by omega, hje⟩
  · simp only [consumption, emitStep, hph, hraw, Bool.false_eq_true, if_false, slotWrite_n, slotWrite_wordsDrawn,
      slotWrite_numWords, toNat_succ_of_lt hf, hbit]
    exact ⟨hsd, hl, hd, hdn, by omega, by omega⟩

theorem CommandInv.busyStep_table {op : Op} {v : Bool} {s : State} (h : CommandInv op v s) :
    consumption op (busyStep op s) := by
  cases hp : s.phase <;> simp only [busyStep, hp]
  case idle => exact h.table
  case seeddraw => exact h.seedDrawStep_table hp
  case seedload => exact h.seedLoadStep_table hp
  case fetch => exact h.fetchStep_table hp
  case emit =>
    cases hraw : isRaw op with
    | true => exact h.emitStep_table_of_raw hp hraw
    | false => exact h.emitStep_table_of_bits hp hraw
  case done => exact h.table
  case error => exact h.table

theorem CommandInv.busyStep {op : Op} {v : Bool} {s : State} (h : CommandInv op v s)
    (ha : s.phase.accepting = false) : CommandInv op v (busyStep op s) := by
  obtain ⟨hcfg, hn, hnw, herr⟩ := busyStep_keeps_command (op := op) ha
  exact ⟨herr ▸ h.errcode, hn ▸ h.count, h.seedv, hcfg ▸ h.cfg, by rw [hn, hnw, h.numWords], h.busyStep_table⟩

/-! ### Every step keeps the invariant -/

theorem wordInv_resetStep (s : State) : wordInv (resetStep s) := ⟨⟨rfl, rfl, rfl, rfl, rfl, rfl, rfl⟩, rfl, rfl⟩

theorem wordInv_raiseError_latchCommand {code : ErrCode} (hc : code ≠ .none) (cw : BitVec 8) (s : State) :
    wordInv (raiseError code (latchCommand cw s)) := ⟨⟨rfl, rfl, rfl, rfl, rfl, rfl, rfl⟩, hc⟩

theorem wordInv_acceptIllegal (cw : BitVec 8) (s : State) : wordInv (acceptIllegal cw s) :=
  wordInv_raiseError_latchCommand (by decide) cw s

/-- Where a validated command goes, with what leads there (R75, R82). -/
theorem firstPhase_cases (op : Op) (n : Int) (seed : Option Word64) :
    (n = 0 ∧ firstPhase op n seed = .done) ∨
    (n ≠ 0 ∧ takesSeed op = true ∧ seed.isSome = true ∧ firstPhase op n seed = .seedload) ∨
    (n ≠ 0 ∧ takesSeed op = true ∧ seed.isSome = false ∧ firstPhase op n seed = .seeddraw) ∨
    (n ≠ 0 ∧ takesSeed op = false ∧ firstPhase op n seed = .fetch) := by
  unfold firstPhase
  split_ifs with hn ht hs <;> simp_all

/-- ACCEPT of a count in range sets the command up as R26's table starts. -/
theorem CommandInv.of_accept {op : Op} {k : Nat} {seed : Option Word64} {s t : State}
    (hs : seed.isSome = true → takesSeed op = true) (hk : k ≤ 2147483647)
    (ht : t = { latchCommand (cwOf op seed.isSome) s with
      errcode := .none, n := BitVec.ofInt 32 k, numWords := BitVec.ofNat 32 (plannedWords op k),
      seed := seed.getD 0, phase := firstPhase op k seed }) : CommandInv op seed.isSome t := by
  have hn : (BitVec.ofInt 32 (k : Int)).toNat = k := by
    rw [BitVec.ofInt_natCast, BitVec.toNat_ofNat]
    omega
  have hw : (BitVec.ofNat 32 (plannedWords op k)).toNat = plannedWords op k := by
    have hle := plannedWords_le op k
    rw [BitVec.toNat_ofNat]
    omega
  subst ht
  refine ⟨rfl, hn.trans_le hk, hs, rfl, hw.trans (congrArg _ hn.symm), ?_⟩
  obtain ⟨hk0, hph⟩ | ⟨hk0, hts, hsd, hph⟩ | ⟨hk0, hts, hsd, hph⟩ | ⟨hk0, hts, hph⟩ := firstPhase_cases op k seed
  all_goals simp only [consumption, hph, hn, hw, latchCommand_cfg, cwSeedv_cwOf]
  · obtain rfl : k = 0 := by omega
    simp
  · exact ⟨hts, by simp [hsd], by omega, rfl, rfl, rfl⟩
  · exact ⟨hts, hsd, rfl, by omega, rfl, rfl, rfl⟩
  · have hk0 : 0 < k := by omega
    simp [hts, hk0, plannedWords_pos op hk0]

theorem wordInv_accept {op : Op} {seed : Option Word64} (hs : seed.isSome = true → takesSeed op = true) (n : Int)
    (s : State) : wordInv (accept op n seed s) := by
  obtain ⟨-, h⟩ | ⟨-, h⟩ | ⟨h0, hmax, h⟩ := accept_cases op n seed s
  · rw [h]
    exact wordInv_raiseError_latchCommand (by decide) ..
  · rw [h]
    exact wordInv_raiseError_latchCommand (by decide) ..
  · obtain ⟨k, rfl⟩ := Int.eq_ofNat_of_zero_le h0
    exact (CommandInv.of_accept hs (Int.ofNat_le.1 hmax) h).wordInv

theorem step_keeps_wordInv {s t : State} (hi : wordInv s) (h : step s = .next t) : wordInv t := by
  obtain ⟨-, rfl⟩ | ⟨-, -, hacc⟩ | ⟨-, ha, op, ho, rfl⟩ := step_cases h
  · exact wordInv_resetStep _
  · obtain ⟨-, rfl⟩ | ⟨r, rest, -, ⟨why, -, rfl⟩ | ⟨op, seed, -, -, hs, rfl⟩⟩ := hacc
    · exact hi
    · exact wordInv_acceptIllegal ..
    · exact wordInv_accept (fun h => (hs h).1) ..
  · obtain ⟨v, hc⟩ := CommandInv.of_wordInv (s := sampled s) hi ha ho
    exact (hc.busyStep ha).wordInv

/-! ### Every step keeps the slots below FILLED -/

/-- What EMIT writes is a legal value of its operation (R50). -/
theorem legalSlot_slotOf (op : Op) (w : Word64) (j : Nat) : legalSlot op (slotOf op w j) := by
  refine ⟨rfl, ?_⟩
  have hbit : unpackBit w.toNat j = 0 ∨ unpackBit w.toNat j = 1 := Nat.mod_two_eq_zero_or_one _
  cases hm : mapSel op with
  | none => trivial
  | some m => cases m <;> obtain hb | hb := hbit <;> simp [slotOf, slotValue, hm, hb, mapBern, mapRade]

theorem slotsFilled_of_filled_zero {s : State} (h : s.filled = 0) : slotsFilled s := by
  intro op _ i hi
  simp [h] at hi

theorem slotsFilled_emitStep {op : Op} {s : State} (h : slotsFilled s) (ho : s.op = some op)
    (hf : s.filled.toNat < s.n.toNat) : slotsFilled (emitStep op s) := by
  intro op' ho' i hi
  obtain rfl : op' = op := Option.some.inj (ho'.symm.trans ho)
  rw [emitStep_filled, toNat_succ_of_lt hf] at hi
  rw [emitStep_out]
  by_cases hlast : i = s.filled.toNat
  · subst hlast
    exact ⟨_, Memory.read_write_same .., legalSlot_slotOf ..⟩
  · rw [Memory.read_write_other _ _ _ _ hlast]
    exact h _ ho i (by omega)

theorem slotsFilled_busyStep {op : Op} {s : State} (hi : wordInv s) (h : slotsFilled s)
    (ha : s.phase.accepting = false) (ho : s.op = some op) : slotsFilled (busyStep op s) := by
  by_cases he : s.phase = .emit
  · obtain ⟨v, hc⟩ := CommandInv.of_wordInv hi ha ho
    rw [busyStep_of_emit he]
    exact slotsFilled_emitStep h ho (hc.filled_lt he)
  · obtain ⟨hout, hfill⟩ := busyStep_keeps_output (op := op) ha he
    unfold slotsFilled State.op
    rw [hout, hfill, (busyStep_keeps_command ha).1]
    exact h

theorem step_keeps_slotsFilled {s t : State} (hi : wordInv s) (hs : slotsFilled s) (h : step s = .next t) :
    slotsFilled t := by
  obtain ⟨-, rfl⟩ | ⟨-, -, hacc⟩ | ⟨-, ha, op, ho, rfl⟩ := step_cases h
  · exact slotsFilled_of_filled_zero rfl
  · obtain ⟨-, rfl⟩ | ⟨r, rest, -, ⟨why, -, rfl⟩ | ⟨op, seed, -, -, -, rfl⟩⟩ := hacc
    · exact hs
    · exact slotsFilled_of_filled_zero rfl
    · exact slotsFilled_of_filled_zero (accept_output ..).2
  · exact slotsFilled_busyStep (s := sampled s) hi hs ha ho

/-- Settles O26: the invariant by cases on the step and, in a busy phase, on R26's row; the slots by EMIT's one write. -/
theorem wordConsumptionKept : Obligations.WordConsumptionKept :=
  fun _ _ hi hs h => ⟨step_keeps_wordInv hi h, step_keeps_slotsFilled hi hs h, fun _ ha => step_read_other h ha⟩

end Sys2Proof.Machine
end


section
/-! PROOFS. The output port of spec/20_memory.md (R31): a step's slot write and its change to OUT are one and the same. -/

namespace Sys2Proof.Machine

open Sys2Proof

/-! ### Which steps make a slot write -/

@[simp] theorem accept_lastEvent (op : Op) (n : Int) (seed : Option Word64) (s : State) :
    (accept op n seed s).lastEvent = some .commandRead := by
  obtain ⟨-, h⟩ | ⟨-, h⟩ | ⟨-, -, h⟩ := accept_cases op n seed s
  all_goals rw [h]; rfl

@[simp] theorem emitStep_lastEvent (op : Op) (s : State) :
    (emitStep op s).lastEvent = some (.slotWrite s.filled (slotOf op s.word s.j.toNat)) := rfl

theorem busyStep_lastEvent_ne_slotWrite {op : Op} {s : State} (ha : s.phase.accepting = false) (he : s.phase ≠ .emit)
    (i : Word32) (v : Slot) : (busyStep op s).lastEvent ≠ some (.slotWrite i v) := by
  obtain ⟨-, -, h⟩ | ⟨-, -, _, _, _, -, h⟩ | ⟨-, h⟩ | ⟨-, -, -, h⟩ | ⟨-, -, -, h⟩ | ⟨-, -, -, _, _, _, -, h⟩ |
    ⟨-, -, -, _, _, _, -, h⟩ | ⟨hp, -⟩ := busyStep_cases (op := op) ha
  case inr.inr.inr.inr.inr.inr.inr => exact absurd hp he
  all_goals simp [h]

theorem step_of_emit {s : State} {op : Op} (hr : resetNow s = false) (hp : s.phase = .emit) (ho : s.op = some op) :
    step s = .next (emitStep op (sampled s)) := by
  rw [step_of_busy hr (by simp [hp, Phase.accepting, Phase.busy]) ho, busyStep_of_emit (s := sampled s) hp]

/-- Any step either makes no slot write and keeps OUT, or is EMIT's and makes the one it reports, at FILLED. -/
theorem step_slotWrite_cases {s t : State} (h : step s = .next t) :
    ((∀ i v, t.lastEvent ≠ some (.slotWrite i v)) ∧ t.out = s.out) ∨
    (s.phase = .emit ∧
      ∃ v, t.lastEvent = some (.slotWrite s.filled v) ∧ t.out = s.out.write s.filled.toNat v) := by
  obtain ⟨-, rfl⟩ | ⟨-, -, hacc⟩ | ⟨-, ha, op, -, rfl⟩ := step_cases h
  · exact .inl ⟨by simp, rfl⟩
  · obtain ⟨-, rfl⟩ | ⟨r, rest, -, ⟨why, -, rfl⟩ | ⟨op, seed, -, -, -, rfl⟩⟩ := hacc
    · exact .inl ⟨by simp, rfl⟩
    · exact .inl ⟨by simp [acceptIllegal], rfl⟩
    · exact .inl ⟨by simp, (accept_output ..).1⟩
  · by_cases he : s.phase = .emit
    · rw [busyStep_of_emit (s := sampled s) he]
      exact .inr ⟨he, _, emitStep_lastEvent .., emitStep_out ..⟩
    · exact .inl ⟨busyStep_lastEvent_ne_slotWrite (s := sampled s) ha he,
        (busyStep_keeps_output (s := sampled s) ha he).1⟩

/-- Settles O38: EMIT's step is `emitStep`; the rest by cases on whether the step makes a slot write. -/
theorem slotWriteHolds : Obligations.SlotWriteHolds := by
  refine ⟨fun s op hr hp ho => ⟨_, _, step_of_emit hr hp ho, emitStep_lastEvent .., rfl⟩, fun s t h => ?_⟩
  obtain ⟨hno, hout⟩ | ⟨hp, v, hev, hout⟩ := step_slotWrite_cases h
  · exact ⟨fun i v hev => absurd hev (hno i v), fun _ => hout⟩
  · refine ⟨fun i w hw => ?_, fun hno => absurd hev (hno _ _)⟩
    obtain ⟨rfl, rfl⟩ : s.filled = i ∧ v = w := by simpa [hev] using hw
    rw [hout]
    exact ⟨hp, rfl, Memory.read_write_same .., fun a ha => Memory.read_write_other _ _ _ _ ha⟩

end Sys2Proof.Machine
end


section
/-! PROOFS. The encoding of spec/30_encoding.md: the legal command words (R45), the error an illegal one takes (R52), the
constants of the operations (R46) and the values on the output port (R50). -/

namespace Sys2Proof.Machine

open Sys2Proof

/-! ### The legal command words -/

/-- CW is an operation's command word, with SEEDV only where the operation takes a seed (R45, R52). -/
def legalWord (cw : BitVec 8) : Prop := ∃ op v, (v = true → takesSeed op = true) ∧ cw = cwOf op v

theorem decodeCmd_of_cw_eq {r : CmdRecord} {op : Op} {v : Bool} (hv : v = true → takesSeed op = true)
    (hcw : r.cw = cwOf op v) :
    decodeCmd r = .instr (Instr.ofCommand op r.nIn.toInt (if v then some r.seedIn else none)) := by
  rw [← decodeCmd_cwOf r.nIn r.seedIn hv, ← hcw]

theorem decodeCmd_illegal_iff (r : CmdRecord) : (∃ why, decodeCmd r = .illegal why) ↔ ¬ legalWord r.cw := by
  constructor
  · rintro ⟨why, hd⟩ ⟨op, v, hv, hcw⟩
    rw [decodeCmd_of_cw_eq hv hcw] at hd
    cases hd
  · intro hl
    cases hd : decodeCmd r with
    | illegal why => exact ⟨why, rfl⟩
    | instr i =>
      obtain ⟨op, ho, hres, hs, -⟩ := decodeCmd_instr hd
      exact absurd ⟨op, _, hs, cw_eq_cwOf hres ho⟩ hl

theorem mem_of_legalWord {cw : BitVec 8} (h : legalWord cw) :
    cw ∈ [0x00, 0x01, 0x02, 0x03, 0x04, 0x05, 0x0C, 0x0D] := by
  obtain ⟨op, v, hv, rfl⟩ := h
  revert hv
  cases op <;> cases v <;> decide

/-- Settles O1: a legal word is some `cwOf op v`, which decodes; the eight words are all of these. -/
theorem commandWordsDecode : Obligations.CommandWordsDecode := by
  intro r
  have legal (op : Op) (v : Bool) (hv : v = true → takesSeed op = true) := decodeCmd_of_cw_eq (r := r) hv
  exact ⟨legal .rbits false (by decide), legal .bern false (by decide), legal .logi false (by decide),
    legal .rade false (by decide), legal .bern64 false (by decide), legal .rade64 false (by decide),
    legal .bern64 true (by decide), legal .rade64 true (by decide),
    fun hcw => (decodeCmd_illegal_iff r).2 (mt mem_of_legalWord hcw)⟩

/-! ### Illegal command words -/

theorem opOfCode_eq_none_iff (c : BitVec 3) : opOfCode c = none ↔ c = 6 ∨ c = 7 := by
  revert c
  decide

/-- The operations that take a seed are numbered after those that do not (R45, R46). -/
theorem takesSeed_iff_lt_opCode (op : Op) : takesSeed op = true ↔ 3 < (opCode op).toNat := by
  cases op <;> decide

theorem legalWord_iff (cw : BitVec 8) :
    legalWord cw ↔ (¬(cwOp cw = 6 ∨ cwOp cw = 7) ∧ cwReserved cw = 0 ∧ (cwSeedv cw = true → 3 < (cwOp cw).toNat)) := by
  constructor
  · rintro ⟨op, v, hv, rfl⟩
    rw [← opOfCode_eq_none_iff, cwOp_cwOf, opOfCode_opCode, cwSeedv_cwOf, ← takesSeed_iff_lt_opCode]
    exact ⟨Option.some_ne_none _, cwReserved_cwOf op v, hv⟩
  · rintro ⟨hop, hres, hs⟩
    rw [← opOfCode_eq_none_iff] at hop
    obtain ⟨op, ho⟩ := Option.ne_none_iff_exists'.1 hop
    rw [opCode_of_opOfCode ho, ← takesSeed_iff_lt_opCode] at hs
    exact ⟨op, _, hs, cw_eq_cwOf hres ho⟩

theorem step_of_illegal {s : State} {r : CmdRecord} {rest : List CmdRecord} {why : DecodeError}
    (hr : resetNow s = false) (ha : s.phase.accepting = true) (hp : s.cmdPort = r :: rest)
    (hd : decodeCmd r = .illegal why) : step s = .next (acceptIllegal r.cw { sampled s with cmdPort := rest }) := by
  simp [step, turn, hr, ha, acceptTurn, hp, hd]

/-- Settles O2: an illegal word breaks one of the legal word's three conditions; its step is `acceptIllegal`. -/
theorem illegalCommandWordTakesError : Obligations.IllegalCommandWordTakesError := by
  refine fun s r rest => ⟨?_, fun ⟨why, hd⟩ hr ha hp => step_of_illegal hr ha hp hd⟩
  rw [decodeCmd_illegal_iff, legalWord_iff, not_and_or, not_and_or, not_not, Classical.not_imp, not_lt]

/-! ### The constants of the operations -/

/-- Settles O6, operation by operation. -/
theorem operationConstants : Obligations.OperationConstants := by
  intro op
  cases op <;> decide

/-! ### The output port -/

theorem exec_of_emit {op : Op} {s : State} (n : Int) (seed : Option Word64) (hp : s.phase = .emit)
    (hc : cwOp s.cfg = opCode op) : exec (Instr.ofCommand op n seed) s = .next (emitStep op s) := by
  rw [exec_of_busy n seed (by simp [hp, Phase.accepting, Phase.busy]) hc, busyStep_of_emit hp]

/-- A slot's pattern, with the signed number it stands for (R50). -/
theorem eq_and_toInt_eq {a b : Word32} {k : Int} (hk : b.toInt = k) (h : a = b) : a = b ∧ a.toInt = k :=
  ⟨h, h ▸ hk⟩

/-- RBITS's slot is the word's low 32 bits (R70). -/
theorem slotOf_rbits_toNat (w : Word64) (j : Nat) : (slotOf .rbits w j).val.toNat = w.toNat % 2 ^ 32 :=
  BitVec.toNat_setWidth ..

/-- Settles O34: EMIT's slot is a legal one of its operation, and `legalSlot` fixes the values mapper by mapper. -/
theorem outputValues : Obligations.OutputValues := by
  intro op n seed s hp hc
  obtain ⟨-, hval⟩ := legalSlot_slotOf op s.word s.j.toNat
  refine ⟨_, _, exec_of_emit n seed hp hc, Memory.read_write_same .., ?_, ?_, ?_, ?_⟩
  · cases op <;> rfl
  · rintro (rfl | rfl | rfl) <;> exact hval.imp (eq_and_toInt_eq (by decide)) (eq_and_toInt_eq (by decide))
  · rintro (rfl | rfl) <;> exact hval.imp (eq_and_toInt_eq (by decide)) (eq_and_toInt_eq (by decide))
  · rintro rfl
    exact slotOf_rbits_toNat ..

end Sys2Proof.Machine
end


section
/-! PROOFS. The word sources of spec/40_word_sources.md: NEXT32 (R58), SEED64 (R60), NEXT64 and its word stream (R61), and
the mixing function (R62). -/

namespace Sys2Proof.Machine

open Sys2Proof

/-! ### NEXT64 and the stream of SRC64's words -/

theorem next64_of_mix {s : State} (h : s.src64 = .mix) :
    next64 s = some (mix (s.g64 + gamma),
      { s with g64 := s.g64 + gamma, lastEvent := some (.next64 (mix (s.g64 + gamma))) }) := by
  simp [next64, h]

theorem exec_next64_of_answer {s t : State} {w : Word64} (h : next64 s = some (w, t)) : exec .next64 s = .next t := by
  simp [exec, execNext64, h]

theorem add_gamma_add_mul_gamma (g : Word64) (n : Nat) :
    g + gamma + BitVec.ofNat 64 n * gamma = g + BitVec.ofNat 64 (n + 1) * gamma := by
  rw [BitVec.add_assoc, BitVec.ofNat_add, BitVec.add_mul, BitVec.one_mul, BitVec.add_comm gamma]

/-- Reading k words of SRC64 makes k increments, and mixes each value of the counter on the way. -/
theorem readWords_src64_of_mix (k : Nat) {s : State} (h : s.src64 = .mix) :
    ∃ t, readWords .src64 k s =
        some ((List.range k).map fun i => mix (s.g64 + BitVec.ofNat 64 (i + 1) * gamma), t) ∧
      t.g64 = s.g64 + BitVec.ofNat 64 k * gamma := by
  induction k generalizing s with
  | zero => exact ⟨s, rfl, by simp⟩
  | succ k ih =>
    obtain ⟨t, hread, hg⟩ :=
      ih (s := { s with g64 := s.g64 + gamma, lastEvent := some (.next64 (mix (s.g64 + gamma))) }) h
    simp only [add_gamma_add_mul_gamma] at hread hg
    refine ⟨t, ?_, hg⟩
    simp [readWords, readWord, next64_of_mix h, hread, List.range_succ_eq_map, Function.comp_def]

/-- Settles O41: one word by `next64_of_mix`, the stream by induction on the number of words. -/
theorem next64AdvancesAndMixes : Obligations.Next64AdvancesAndMixes :=
  ⟨fun _ h => exec_next64_of_answer (next64_of_mix h), fun s v k h => readWords_src64_of_mix k (s := seedWrite v s) h⟩

/-! ### NEXT32 -/

theorem exec_next32_of_unif {s : State} (h : s.src32 = .unif) :
    exec .next32 s = .next { s with hg := s.hg.nextWord.2, lastEvent := some (.next32 s.hg.nextWord.1) } := by
  simp [exec, execNext32, next32, h]

/-- The sum of R58 does not carry, so the word is the two half-words side by side. -/
theorem wordOfHalves_toNat (high low : BitVec 16) : (wordOfHalves high low).toNat = high.toNat * 65536 + low.toNat := by
  rw [wordOfHalves, BitVec.toNat_ofNat]
  omega

theorem wordOfHalves_eq_append (high low : BitVec 16) : wordOfHalves high low = high ++ low := by
  apply BitVec.eq_of_toNat_eq
  rw [wordOfHalves_toNat, BitVec.toNat_append, ← Nat.shiftLeft_add_eq_or_of_lt low.isLt, Nat.shiftLeft_eq]

/-- Settles O39: the word is the two half-words appended, and each fixed draw is the script's head. -/
theorem next32MakesTwoDraws : Obligations.Next32MakesTwoDraws := by
  refine ⟨fun s h => ⟨_, exec_next32_of_unif h, wordOfHalves_toNat .., ?_, ?_, HostGen.nextWord_drawn _⟩,
    fun _ _ _ _ => ⟨rfl, rfl, rfl⟩⟩
  all_goals rw [HostGen.nextWord, wordOfHalves_eq_append]
  · exact BitVec.extractLsb'_append_eq_left
  · exact BitVec.extractLsb'_append_eq_right

/-! ### SEED64 -/

theorem exec_seed64 (v : Word64) (s : State) : exec (.seed64 v) s = .next (seedWrite v s) := rfl

theorem seedWrite_of_g64 (v g : Word64) (s : State) : seedWrite v { s with g64 := g } = seedWrite v s := rfl

/-- Settles O40: SEED64 is `seedWrite`, which overwrites G64. -/
theorem seed64WritesCounter : Obligations.Seed64WritesCounter := fun v g s =>
  ⟨exec_seed64 v s, by rw [exec_seed64, exec_seed64, seedWrite_of_g64]⟩

/-! ### mix -/

theorem xor_ushiftRight_toNat {w : Nat} (x : BitVec w) (k : Nat) :
    (x ^^^ (x >>> k)).toNat = x.toNat ^^^ (x.toNat / 2 ^ k) := by
  rw [BitVec.toNat_xor, BitVec.toNat_ushiftRight, Nat.shiftRight_eq_div_pow]

/-- One stage of R62: a shifted exclusive or, then the low bits of the product. -/
theorem xor_ushiftRight_mul_toNat {w : Nat} (x m : BitVec w) (k : Nat) :
    ((x ^^^ (x >>> k)) * m).toNat = (x.toNat ^^^ (x.toNat / 2 ^ k)) * m.toNat % 2 ^ w := by
  rw [BitVec.toNat_mul, xor_ushiftRight_toNat]

theorem mixMul1_toNat : mixMul1.toNat = 13787848793156543929 := rfl

theorem mixMul2_toNat : mixMul2.toNat = 10723151780598845931 := rfl

/-- Settles O42: two multiplying stages and a last exclusive or; the worked example is closed. -/
theorem mixOnNumbers : Obligations.MixOnNumbers := by
  refine ⟨fun z => ?_, by decide⟩
  simp only [mix, xor_ushiftRight_toNat, xor_ushiftRight_mul_toNat, mixMul1_toNat, mixMul2_toNat]

end Sys2Proof.Machine
end


section
/-! PROOFS. The unpacker of spec/41_unpack_and_map.md: the word count and the last word's bits (R71), and the bit of the
held word that a slot is made of (R65 to R69), which is below W (R66). -/

namespace Sys2Proof.Machine

open Sys2Proof

/-! ### The word count and the last word's bits (R71) -/

theorem ceilWords_le_iff {n w k : Nat} (hw : 0 < w) : ceilWords n w ≤ k ↔ n ≤ k * w := by
  rw [← not_lt, lt_ceilWords_iff hw, not_lt]

theorem ceilWords_eq_zero_iff {n w : Nat} (hw : 0 < w) : ceilWords n w = 0 ↔ n = 0 := by
  rw [← Nat.le_zero, ceilWords_le_iff hw, Nat.zero_mul, Nat.le_zero]

/-- All words but the last are full, and the last one gives 1 to W bits. -/
theorem exists_lastBits {n w : Nat} (hw : 0 < w) (hn : 0 < n) :
    ∃ k, n = k * w + lastBits n w ∧ 1 ≤ lastBits n w ∧ lastBits n w ≤ w := by
  have hle := (ceilWords_le_iff hw).1 (le_refl (ceilWords n w))
  have hpos : ceilWords n w ≠ 0 := mt (ceilWords_eq_zero_iff hw).1 hn.ne'
  obtain ⟨k, hk⟩ := Nat.exists_eq_succ_of_ne_zero hpos
  have hlt : k * w < n := (lt_ceilWords_iff hw).1 (hk ▸ Nat.lt_succ_self k)
  rw [hk, Nat.succ_mul] at hle
  have hlast : lastBits n w = n - k * w := by rw [lastBits, hk, Nat.succ_sub_one]
  exact ⟨k, by omega, by omega, by omega⟩

theorem lastBits_eq_mod {n w : Nat} (hw : 0 < w) (hn : 0 < n) :
    lastBits n w = if n % w = 0 then w else n % w := by
  obtain ⟨k, hsplit, hpos, hle⟩ := exists_lastBits hw hn
  have hmod : n % w = lastBits n w % w := by
    conv_lhs => rw [hsplit, Nat.mul_add_mod_self_right]
  obtain heq | hlt := hle.eq_or_lt
  · rw [hmod, heq, Nat.mod_self, if_pos rfl]
  · rw [hmod, Nat.mod_eq_of_lt hlt, if_neg (by omega)]

/-- n + W - 1 stays below 2^32, so 32 unsigned bits hold it. -/
theorem toNat_ceilWords_quotient {n : Word32} {w : Nat} (hn : n.toNat ≤ 2147483647) (hw : w = 31 ∨ w = 63) :
    ((n + BitVec.ofNat 32 w - 1) / BitVec.ofNat 32 w).toNat = ceilWords n.toNat w := by
  rw [BitVec.toNat_udiv, ceilWords]
  obtain rfl | rfl := hw <;> congr 1 <;> bv_omega

/-- Settles O32: `ceilWords_le_iff` characterises the ceiling, `exists_lastBits` splits n at the last word. -/
theorem wordCountIsCeiling : Obligations.WordCountIsCeiling := by
  refine ⟨fun n w hw => ⟨rfl, rfl, (ceilWords_le_iff hw).1 le_rfl, fun k => (ceilWords_le_iff hw).2,
    ceilWords_eq_zero_iff hw, fun hn => ⟨lastBits_eq_mod hw hn, ?_⟩⟩, fun n w => toNat_ceilWords_quotient⟩
  obtain ⟨k, -, hbounds⟩ := exists_lastBits hw hn
  exact hbounds

/-! ### A slot is made of one bit (R65 to R69) -/

theorem unpackBit_eq_toNat_getLsbD (w : Word64) (j : Nat) : unpackBit w.toNat j = (w.getLsbD j).toNat := by
  rw [BitVec.getLsbD, Nat.toNat_testBit, unpackBit]

/-- The mapped bit as a pattern (R67, R68). -/
theorem slotOf_of_not_raw {op : Op} (h : isRaw op = false) (w : Word64) (j : Nat) :
    slotOf op w j = {
      val := if w.getLsbD j then 1#32 else if mapSel op = some .rade then 0xFFFFFFFF#32 else 0#32,
      otype := otypeOf op } := by
  rw [slotOf, slotValue, unpackBit_eq_toNat_getLsbD]
  cases op
  case rbits => cases h
  all_goals cases w.getLsbD j <;> rfl

theorem CommandInv.j_lt {op : Op} {v : Bool} {s : State} (h : CommandInv op v s) (hp : s.phase = .emit)
    (hraw : isRaw op = false) : s.j.toNat < usableBits op := by
  have htab := h.table
  simp only [consumption, hp, hraw, Bool.false_eq_true, if_false] at htab
  obtain ⟨-, -, -, -, hj, -⟩ := htab
  exact hj

/-- EMIT reads WORD only to make its slot. -/
theorem emitStep_of_word {op : Op} {s : State} {w : Word64}
    (h : slotOf op w s.j.toNat = slotOf op s.word s.j.toNat) :
    emitStep op { s with word := w } = { emitStep op s with word := w } := by
  simp only [emitStep, h]
  rfl

/-- Settles O33: EMIT's slot is made of bit J, which is below W. -/
theorem unusedBitsDoNotMatter : Obligations.UnusedBitsDoNotMatter := by
  refine ⟨by decide, fun op n seed s t w hraw hi hp ho hbits h => ?_⟩
  have hc := opCode_of_opOfCode ho
  obtain ⟨v, hinv⟩ := CommandInv.of_wordInv hi (by simp [hp, Phase.accepting, Phase.busy]) ho
  have hslot : slotOf op w s.j.toNat = slotOf op s.word s.j.toNat := by
    rw [slotOf_of_not_raw hraw, slotOf_of_not_raw hraw, hbits _ (hinv.j_lt hp hraw)]
  rw [exec_of_emit n seed hp hc, Host.Outcome.next.injEq] at h
  rw [exec_of_emit (s := { s with word := w }) n seed hp hc, emitStep_of_word hslot, h]

end Sys2Proof.Machine
end


section
/-! PROOFS. The word sequence a command reads (spec/20_memory.md R38): what the sources answer depends on their own
state alone. And the slots made of it (41_unpack_and_map.md R72). -/

namespace Sys2Proof.Machine

open Sys2Proof

section WordSequences

variable {src : SrcSel} {op : Op} {k i : Nat} {w : Word64} {ws : List Word64} {s s' t : State}

/-! ### What a source answers depends on the sources alone -/

/-- The agents that answer the word port are in the same state (R23, R24, R64). -/
structure SameSources (s t : State) : Prop where
  hg : s.hg = t.hg
  g64 : s.g64 = t.g64
  src32 : s.src32 = t.src32
  src64 : s.src64 = t.src64

theorem SameSources.trans {s t u : State} (h : SameSources s t) (h' : SameSources t u) : SameSources s u :=
  ⟨h.hg.trans h'.hg, h.g64.trans h'.g64, h.src32.trans h'.src32, h.src64.trans h'.src64⟩

theorem next32_congr {w : Word32} (hs : SameSources s' s) (h : next32 s = some (w, t)) :
    ∃ t', next32 s' = some (w, t') ∧ SameSources t' t := by
  obtain ⟨hhg, hg64, h32, h64⟩ := hs
  unfold next32 at h ⊢
  rw [h32, hhg]
  split at h <;> cases h
  all_goals exact ⟨_, rfl, by constructor <;> simp [*]⟩

theorem next64_congr (hs : SameSources s' s) (h : next64 s = some (w, t)) :
    ∃ t', next64 s' = some (w, t') ∧ SameSources t' t := by
  obtain ⟨hhg, hg64, h32, h64⟩ := hs
  unfold next64 at h ⊢
  rw [h64, hg64]
  split at h <;> cases h
  all_goals exact ⟨_, rfl, by constructor <;> simp [*]⟩

theorem readWord_congr (hs : SameSources s' s) (h : readWord src s = some (w, t)) :
    ∃ t', readWord src s' = some (w, t') ∧ SameSources t' t := by
  cases src with
  | src32 =>
    simp only [readWord, Option.map_eq_some_iff, Prod.mk.injEq] at h
    obtain ⟨⟨w, t⟩, h, rfl, rfl⟩ := h
    obtain ⟨t', h', ht⟩ := next32_congr hs h
    exact ⟨t', by simp [readWord, h'], ht⟩
  | src64 => exact next64_congr hs h

theorem readWords_succ_iff :
    readWords src (k + 1) s = some (ws, t) ↔
      ∃ w s1 rest, readWord src s = some (w, s1) ∧ readWords src k s1 = some (rest, t) ∧ ws = w :: rest := by
  rw [readWords]
  constructor
  · intro h
    split at h
    · cases h
    · next w s1 h1 =>
      split at h
      · cases h
      · next rest s2 h2 =>
        cases h
        exact ⟨w, s1, rest, h1, h2, rfl⟩
  · rintro ⟨w, s1, rest, h1, h2, rfl⟩
    simp only [h1, h2]

theorem readWords_congr (hs : SameSources s' s) (h : readWords src k s = some (ws, t)) :
    ∃ t', readWords src k s' = some (ws, t') ∧ SameSources t' t := by
  induction k generalizing s s' ws with
  | zero =>
    cases h
    exact ⟨s', rfl, hs⟩
  | succ k ih =>
    obtain ⟨w, s1, rest, h1, h2, rfl⟩ := readWords_succ_iff.1 h
    obtain ⟨s1', h1', hs1⟩ := readWord_congr hs h1
    obtain ⟨t', h2', ht⟩ := ih hs1 h2
    exact ⟨t', readWords_succ_iff.2 ⟨w, s1', rest, h1', h2', rfl⟩, ht⟩

theorem readWords_length (h : readWords src k s = some (ws, t)) : ws.length = k := by
  induction k generalizing s ws with
  | zero =>
    cases h
    rfl
  | succ k ih =>
    obtain ⟨w, s1, rest, -, h2, rfl⟩ := readWords_succ_iff.1 h
    rw [List.length_cons, ih h2]

/-! ### The slots of a word sequence (R72) -/

theorem sampleSlot_of_not_raw (h : isRaw op = false) (hw : ws[i / usableBits op]? = some w) :
    sampleSlot op ws i = slotOf op w (i % usableBits op) := by
  rw [sampleSlot, h, if_neg Bool.false_ne_true, List.getD_eq_getElem?_getD, hw, Option.getD_some]

theorem sampleSlot_of_raw (h : isRaw op = true) (hw : ws[i]? = some w) :
    sampleSlot op ws i = { val := w.setWidth 32, otype := .int } := by
  rw [sampleSlot, if_pos h, List.getD_eq_getElem?_getD, hw, Option.getD_some]
  cases op
  case rbits => rfl
  all_goals cases h

theorem read_writeSlots (op : Op) (ws : List Word64) (k : Nat) (m : Memory) (i : Nat) :
    (writeSlots op ws k m).read i = if i < k then some (sampleSlot op ws i) else m.read i := by
  induction k with
  | zero => rw [writeSlots, if_neg (Nat.not_lt_zero i)]
  | succ k ih =>
    rw [writeSlots]
    by_cases hik : i = k
    · subst hik
      rw [Memory.read_write_same, if_pos (Nat.lt_succ_self i)]
    · have hlt : i < k + 1 ↔ i < k := by omega
      rw [Memory.read_write_other _ _ _ _ hik, ih]
      simp only [hlt]

end WordSequences

end Sys2Proof.Machine
end


section
/-! PROOFS. A whole command (spec/42_sequencer.md R84, 41_unpack_and_map.md R72). From its first FETCH on, a run is
followed by one invariant, `Running`: the words still to come, the word held and the slots written so far are those of
one word sequence. Each step brings `remaining` down by one, so the run ends in `finished` after that many steps. -/

namespace Sys2Proof.Machine

open Sys2Proof

section Run

variable {op : Op} {v : Bool} {seed : Option Word64} {ws : List Word64} {m : Memory} {s z : State} {r : CmdRecord}
  {rest : List CmdRecord}

/-! ### The invariant of a run -/

/-- A command of count > 0 on its way from its first FETCH to DONE, reading the words `ws` into slots over `m`; after
the last word the sources are as in `z`. -/
structure Running (op : Op) (v : Bool) (ws : List Word64) (m : Memory) (z s : State) : Prop where
  inv : CommandInv op v s
  count : 0 < s.n.toNat
  phase : s.phase = .fetch ∨ s.phase = .emit ∨ s.phase = .done
  words : ∃ t, readWords (srcSel op) (s.numWords.toNat - s.wordsDrawn.toNat) s =
    some (ws.drop s.wordsDrawn.toNat, t) ∧ SameSources t z
  length : ws.length = s.numWords.toNat
  word : s.wordsDrawn.toNat ≠ 0 → s.word = ws.getD (s.wordsDrawn.toNat - 1) 0
  out : s.out = writeSlots op ws s.filled.toNat m
  event : s.phase = .done →
    s.lastEvent = some (.slotWrite (BitVec.ofNat 32 (s.n.toNat - 1)) (sampleSlot op ws (s.n.toNat - 1)))

/-- The steps left: one for each word still to read and each slot still to write. -/
def remaining (s : State) : Nat := s.numWords.toNat - s.wordsDrawn.toNat + (s.n.toNat - s.filled.toNat)

theorem CommandInv.wordsDrawn_lt (h : CommandInv op v s) (hp : s.phase = .fetch) :
    s.wordsDrawn.toNat < s.numWords.toNat := by
  have htab := h.table
  simp only [consumption, hp] at htab
  obtain ⟨-, hf, htab⟩ := htab
  cases hraw : isRaw op with
  | true =>
    simp only [hraw, if_true] at htab
    have hnw := h.numWords.trans (plannedWords_of_raw hraw _)
    omega
  | false =>
    simp only [hraw, Bool.false_eq_true, if_false] at htab
    obtain ⟨-, hd, -⟩ := htab
    exact hd

/-- In EMIT, the slot at FILLED is made of the last word read. -/
theorem CommandInv.slotOf_eq_sampleSlot (h : CommandInv op v s) (hp : s.phase = .emit)
    (hw : s.wordsDrawn.toNat ≠ 0 → s.word = ws.getD (s.wordsDrawn.toNat - 1) 0) :
    slotOf op s.word s.j.toNat = sampleSlot op ws s.filled.toNat := by
  have htab := h.table
  simp only [consumption, hp] at htab
  obtain ⟨-, -, hd, -, htab⟩ := htab
  rw [hw (by omega), sampleSlot]
  cases hraw : isRaw op with
  | true =>
    simp only [hraw, if_true] at htab
    obtain ⟨hfd, hj⟩ := htab
    rw [if_pos rfl, hfd, hj]
  | false =>
    simp only [hraw, Bool.false_eq_true, if_false] at htab
    obtain ⟨hj, hfd⟩ := htab
    have hW := (usableBits_bounds hraw).1
    rw [if_neg Bool.false_ne_true, hfd, Nat.mul_add_mod_self_right, Nat.mod_eq_of_lt hj, Nat.add_comm,
      Nat.add_mul_div_right _ _ hW, Nat.div_eq_of_lt hj, Nat.zero_add]

theorem busyStep_of_answer {t : State} {w : Word64} (hp : s.phase = .fetch)
    (h : readWord (srcSel op) s = some (w, t)) :
    busyStep op s = { t with word := w, wordsDrawn := t.wordsDrawn + 1, j := 0, phase := .emit } := by
  simp only [busyStep, hp, fetchStep, h]

/-- FETCH takes the next word off those still to come. -/
theorem Running.busyStep_of_fetch (h : Running op v ws m z s) (hp : s.phase = .fetch) :
    Running op v ws m z (busyStep op s) ∧ remaining s = remaining (busyStep op s) + 1 := by
  have ha : s.phase.accepting = false := by rw [hp]; rfl
  have hd := h.inv.wordsDrawn_lt hp
  obtain ⟨t, hread, ht⟩ := h.words
  obtain ⟨k, hk⟩ := Nat.exists_eq_succ_of_ne_zero (Nat.sub_ne_zero_of_lt hd)
  rw [hk, readWords_succ_iff] at hread
  obtain ⟨w, s1, rest, h1, hrest, hws⟩ := hread
  have hstep := busyStep_of_answer hp h1
  obtain ⟨t', hrest', ht'⟩ := readWords_congr (s' := busyStep op s) (by rw [hstep]; constructor <;> rfl) hrest
  have hdrawn : (busyStep op s).wordsDrawn.toNat = s.wordsDrawn.toNat + 1 := by
    rw [hstep, readWord_frame h1]
    exact toNat_succ_of_lt hd
  have hdrop : ws.drop (s.wordsDrawn.toNat + 1) = rest := by rw [← List.drop_drop, hws]; rfl
  have hget : ws.getD s.wordsDrawn.toNat 0 = w := by
    rw [List.getD_eq_getElem?_getD, ← List.head?_drop, hws]; rfl
  obtain ⟨-, hn, hnw, -⟩ := busyStep_keeps_command (op := op) ha
  obtain ⟨hout, hfill⟩ := busyStep_keeps_output (op := op) ha (by simp [hp])
  refine ⟨⟨h.inv.busyStep ha, hn ▸ h.count, .inr (.inl (by rw [hstep])), ⟨t', ?_, ht'.trans ht⟩,
    hnw ▸ h.length, fun _ => ?_, ?_, ?_⟩, ?_⟩
  · rw [hnw, hdrawn, hdrop, ← hrest', Nat.sub_add_eq, hk]
    rfl
  · rw [hdrawn, Nat.add_sub_cancel, hget, hstep]
  · rw [hout, hfill, h.out]
  · rw [hstep]
    nofun
  · rw [remaining, remaining, hn, hnw, hfill, hdrawn]
    omega

/-- EMIT writes the next slot of the word sequence; the words still to come stay. -/
theorem Running.busyStep_of_emit (h : Running op v ws m z s) (hp : s.phase = .emit) :
    Running op v ws m z (busyStep op s) ∧ remaining s = remaining (busyStep op s) + 1 := by
  have hinv := h.inv.busyStep (by rw [hp]; rfl)
  have hf := h.inv.filled_lt hp
  have hfill : (emitStep op s).filled.toNat = s.filled.toNat + 1 := toNat_succ_of_lt hf
  obtain ⟨t, hread, ht⟩ := h.words
  obtain ⟨t', hread', ht'⟩ := readWords_congr (s' := emitStep op s) (by constructor <;> rfl) hread
  have hslot := h.inv.slotOf_eq_sampleSlot hp h.word
  rw [Machine.busyStep_of_emit hp] at hinv ⊢
  refine ⟨⟨hinv, h.count, ?_, ⟨t', hread', ht'.trans ht⟩, h.length, h.word, ?_, fun hdone => ?_⟩, ?_⟩
  · obtain ⟨-, he⟩ | ⟨-, -, he⟩ | ⟨-, -, -, he⟩ := emitPhase_cases op hf
    · exact .inr (.inr he)
    · exact .inl he
    · exact .inr (.inl he)
  · rw [hfill, writeSlots, emitStep_out, h.out, hslot]
  · have hlast : s.n.toNat - 1 = s.filled.toNat := by
      obtain ⟨hl, -⟩ | ⟨-, -, he⟩ | ⟨-, -, -, he⟩ := emitPhase_cases op hf
      · omega
      · exact absurd (hdone.symm.trans he) (by decide)
      · exact absurd (hdone.symm.trans he) (by decide)
    show _ = some (PortEvent.slotWrite (BitVec.ofNat 32 (s.n.toNat - 1)) (sampleSlot op ws (s.n.toNat - 1)))
    rw [emitStep_lastEvent, hlast, hslot, BitVec.ofNat_toNat, BitVec.setWidth_eq]
  · show _ = s.numWords.toNat - s.wordsDrawn.toNat + (s.n.toNat - (emitStep op s).filled.toNat) + 1
    rw [hfill, remaining]
    omega

/-! ### The end of a run -/

/-- The state a run of `s` ends in: every word read, every slot written over `m`, the sources as in `z`. -/
def finished (op : Op) (ws : List Word64) (m : Memory) (z s : State) : State :=
  { s with
    phase := .done, wordsDrawn := s.numWords, filled := s.n,
    j := if isRaw op then 0 else BitVec.ofNat 6 (lastBits s.n.toNat (usableBits op)), word := ws.getLastD 0,
    hg := z.hg, g64 := z.g64, src32 := z.src32, src64 := z.src64, out := writeSlots op ws s.n.toNat m,
    lastEvent := some (.slotWrite (BitVec.ofNat 32 (s.n.toNat - 1)) (sampleSlot op ws (s.n.toNat - 1))) }

/-- A run ends where each of its states would. -/
theorem finished_busyStep (ws : List Word64) (m : Memory) (z : State) (hp : s.phase = .fetch ∨ s.phase = .emit) :
    finished op ws m z (busyStep op s) = finished op ws m z s := by
  obtain hp | hp := hp <;> simp only [busyStep, hp]
  · obtain ⟨-, h⟩ | ⟨w, t, ht, h⟩ := fetchStep_cases op s
    · rw [h]
      rfl
    · rw [h, readWord_frame ht]
      rfl
  · rfl

theorem Running.eq_finished (h : Running op v ws m z s) (hp : s.phase = .done) : s = finished op ws m z s := by
  have htab := h.inv.table
  simp only [consumption, hp, h.count.ne', if_false] at htab
  obtain ⟨hf, hd, -, hj⟩ := htab
  have hj : s.j = if isRaw op then 0 else BitVec.ofNat 6 (lastBits s.n.toNat (usableBits op)) := by
    split_ifs at hj ⊢
    · exact BitVec.eq_of_toNat_eq hj
    · obtain ⟨hj, -⟩ := hj
      rw [← hj, BitVec.ofNat_toNat, BitVec.setWidth_eq]
  have hword : s.word = ws.getLastD 0 := by
    have hd0 : s.wordsDrawn.toNat ≠ 0 := by
      rw [hd, h.inv.numWords]
      exact (plannedWords_pos op h.count).ne'
    rw [h.word hd0, hd, ← h.length, List.getLastD_eq_getLast?, List.getLast?_eq_getElem?, List.getD_eq_getElem?_getD]
  obtain ⟨t, hread, ht⟩ := h.words
  rw [hd, Nat.sub_self, readWords, Option.some.injEq, Prod.mk.injEq] at hread
  obtain ⟨-, rfl⟩ := hread
  have hout := h.out
  have hevent := h.event hp
  rw [hf] at hout
  obtain ⟨hhg, hg64, h32, h64⟩ := ht
  rw [BitVec.toNat_inj] at hf hd
  cases s
  simp only [finished, State.mk.injEq, true_and]
  exact ⟨hp, hd, hf, hj, hword, hg64, hhg, h32, h64, hout, hevent⟩

/-- Everything a state of a run can be: its end, or a state whose step leads closer to it. -/
theorem Running.done_or_busyStep (h : Running op v ws m z s) :
    (s.phase = .done ∧ remaining s = 0) ∨
    ((s.phase = .fetch ∨ s.phase = .emit) ∧ Running op v ws m z (busyStep op s) ∧
      remaining s = remaining (busyStep op s) + 1) := by
  obtain hp | hp | hp := h.phase
  · exact .inr ⟨.inl hp, h.busyStep_of_fetch hp⟩
  · exact .inr ⟨.inr hp, h.busyStep_of_emit hp⟩
  · have htab := h.inv.table
    simp only [consumption, hp] at htab
    obtain ⟨hf, hd, -⟩ := htab
    exact .inl ⟨hp, by rw [remaining, hf, hd]; omega⟩

/-! ### Running the machine -/

/-- With reset low, `k` turns lead from `s` to `t`, but for the reset inputs they use up. -/
def RunsTo (k : Nat) (s t : State) : Prop :=
  (∀ b ∈ s.resetIn, b = false) → core.run k s = .next { t with resetIn := s.resetIn.drop k }

theorem RunsTo.zero (s : State) : RunsTo 0 s s := fun _ => rfl

theorem RunsTo.of_step {k : Nat} {t u : State} (hs : resetNow s = false → step s = .next t)
    (ht : t.resetIn = s.resetIn.tail) (h : RunsTo k t u) : RunsTo (k + 1) s u := by
  intro hr
  have hnow : resetNow s = false := by
    rw [resetNow]
    cases h : s.resetIn with
    | nil => rfl
    | cons b rest => exact hr b (by simp [h])
  simp only [Host.Core.run, show core.step s = .next t from hs hnow]
  rw [h (ht ▸ fun b hb => hr b (List.mem_of_mem_tail hb)), ht, List.drop_tail]

theorem busyStep_resetIn (ha : s.phase.accepting = false) :
    (busyStep op s).resetIn = s.resetIn := by
  obtain ⟨-, -, h⟩ | ⟨-, -, _, _, _, -, h⟩ | ⟨-, h⟩ | ⟨-, -, -, h⟩ | ⟨-, -, -, h⟩ | ⟨-, -, -, _, _, _, -, h⟩ |
    ⟨-, -, -, _, _, _, -, h⟩ | ⟨-, h⟩ := busyStep_cases (op := op) ha
  all_goals exact (congrArg State.resetIn h :)

theorem RunsTo.of_busyStep {k : Nat} {u : State} (ho : s.op = some op) (ha : s.phase.accepting = false)
    (h : RunsTo k (busyStep op (sampled s)) u) : RunsTo (k + 1) s u :=
  h.of_step (fun hr => step_of_busy hr ha ho) (busyStep_resetIn (s := sampled s) ha)

theorem CommandInv.op_eq (h : CommandInv op v s) : s.op = some op := by
  simp [State.op, h.cfg]

theorem CommandInv.sampled (h : CommandInv op v s) : CommandInv op v (sampled s) :=
  ⟨h.errcode, h.count, h.seedv, h.cfg, h.numWords, h.table⟩

theorem Running.sampled (h : Running op v ws m z s) : Running op v ws m z (sampled s) := by
  obtain ⟨t, hread, ht⟩ := h.words
  obtain ⟨t', hread', ht'⟩ := readWords_congr (s' := Machine.sampled s) (by constructor <;> rfl) hread
  exact ⟨h.inv.sampled, h.count, h.phase, ⟨t', hread', ht'.trans ht⟩, h.length, h.word, h.out, h.event⟩

/-- By induction on the steps left: a run ends. -/
theorem Running.runsTo (h : Running op v ws m z s) : RunsTo (remaining s) s (finished op ws m z s) := by
  generalize hk : remaining s = k
  induction k generalizing s with
  | zero =>
    obtain ⟨hp, -⟩ | ⟨-, -, hrem⟩ := h.done_or_busyStep
    · rw [← h.eq_finished hp]
      exact .zero s
    · omega
  | succ k ih =>
    obtain ⟨-, h0⟩ | ⟨hp, hb, hrem⟩ := h.sampled.done_or_busyStep
    · exact absurd (h0.symm.trans hk) (Nat.succ_ne_zero k).symm
    · have hrun := ih hb (Nat.succ.inj (hrem.symm.trans hk))
      rw [finished_busyStep _ _ _ hp] at hrun
      refine .of_busyStep h.inv.op_eq ?_ hrun
      obtain hp | hp := hp <;> rw [← sampled_phase, hp] <;> rfl

/-! ### From ACCEPT to the first FETCH -/

theorem CommandInv.running_of_fetch {s1 : State} (h : CommandInv op v s) (hp : s.phase = .fetch)
    (hn : 0 < s.n.toNat) (hd : s.wordsDrawn = 0) (hf : s.filled = 0) (hs : SameSources s s1)
    (hr : readWords (srcSel op) s.numWords.toNat s1 = some (ws, z)) : Running op v ws s.out z s := by
  have hd0 : s.wordsDrawn.toNat = 0 := by rw [hd]; rfl
  have hf0 : s.filled.toNat = 0 := by rw [hf]; rfl
  obtain ⟨t, hread, ht⟩ := readWords_congr hs hr
  refine ⟨h, hn, .inl hp, ⟨t, ?_, ht⟩, readWords_length hr, fun hd => absurd hd0 hd, ?_, by simp [hp]⟩
  · rw [hd0, Nat.sub_zero, List.drop_zero, hread]
  · rw [hf0, writeSlots]

/-- SEEDLOAD, then the run: what it ends in does not depend on the step. -/
theorem runsTo_of_seedload {s1 : State} (h : CommandInv op v s) (hp : s.phase = .seedload)
    (hs : SameSources s s1)
    (hr : readWords (srcSel op) s.numWords.toNat (seedWrite s.seed s1) = some (ws, z)) :
    RunsTo (s.numWords.toNat + s.n.toNat + 1) s (finished op ws s.out z s) := by
  have ha : s.phase.accepting = false := by rw [hp]; rfl
  have htab := h.table
  simp only [consumption, hp] at htab
  obtain ⟨-, -, hn, hf, hd, -⟩ := htab
  have hstep : busyStep op (sampled s) = seedLoadStep (sampled s) := by simp only [busyStep, sampled_phase, hp]
  have hinv : CommandInv op v (seedLoadStep (sampled s)) := hstep ▸ h.sampled.busyStep ha
  have hrun := (hinv.running_of_fetch (s1 := seedWrite s.seed s1) rfl hn (BitVec.eq_of_toNat_eq hd)
    (BitVec.eq_of_toNat_eq hf) ⟨hs.hg, rfl, hs.src32, hs.src64⟩ hr).runsTo
  have hrem : remaining (seedLoadStep (sampled s)) = s.numWords.toNat + s.n.toNat := by
    show s.numWords.toNat - s.wordsDrawn.toNat + (s.n.toNat - s.filled.toNat) = _
    rw [hd, hf, Nat.sub_zero, Nat.sub_zero]
  rw [hrem] at hrun
  exact .of_busyStep h.op_eq ha (hstep ▸ hrun)

/-- SEEDDRAW, SEEDLOAD, then the run; the word drawn is the seed (R76). -/
theorem runsTo_of_seeddraw {s1 t : State} {w : Word32} (h : CommandInv op v s) (hp : s.phase = .seeddraw)
    (hs : SameSources s s1) (hw : next32 s1 = some (w, t))
    (hr : readWords (srcSel op) s.numWords.toNat (seedWrite (w.setWidth 64) t) = some (ws, z)) :
    RunsTo (s.numWords.toNat + s.n.toNat + 2) s
      (finished op ws s.out z { s with seed := w.setWidth 64, seedDrawn := true }) := by
  have ha : s.phase.accepting = false := by rw [hp]; rfl
  obtain ⟨t', hw', ht⟩ := next32_congr (s' := sampled s) ⟨hs.hg, hs.g64, hs.src32, hs.src64⟩ hw
  have hstep : busyStep op (sampled s) =
      { sampled s with
        hg := t'.hg, src32 := t'.src32, lastEvent := some (.next32 w), seed := w.setWidth 64, seedDrawn := true,
        phase := .seedload } := by
    simp only [busyStep, sampled_phase, hp, seedDrawStep, hw']
    rw [next32_frame hw']
  have hinv := h.sampled.busyStep ha
  rw [hstep] at hinv
  refine .of_busyStep h.op_eq ha ?_
  rw [hstep]
  refine runsTo_of_seedload (s1 := t) hinv rfl ⟨ht.hg, ?_, ht.src32, ?_⟩ hr
  · rw [← ht.g64, next32_frame hw']
  · rw [← ht.src64, next32_frame hw']

theorem step_of_presented {n : Int} (hr : resetNow s = false) (ha : s.phase.accepting = true)
    (hp : s.cmdPort = r :: rest) (hd : decodeCmd r = .instr (Instr.ofCommand op n seed))
    (hs : seed.isSome = true → takesSeed op = true) :
    step s = .next (accept op n seed { sampled s with cmdPort := rest }) := by
  simp only [step, turn, hr, Bool.false_eq_true, if_false, ha, if_true, acceptTurn, sampled_cmdPort, hp, hd]
  exact exec_of_accepting n ha hs

theorem toNat_ofNat_of_le {k : Nat} (hk : k ≤ 2147483647) : (BitVec.ofNat 32 k).toNat = k := by
  rw [BitVec.toNat_ofNat]
  omega

theorem accept_of_legal {k : Nat} (hk : k ≤ 2147483647) (seed : Option Word64) (s : State) :
    accept op k seed s = { latchCommand (cwOf op seed.isSome) s with
      errcode := .none, n := BitVec.ofInt 32 k, numWords := BitVec.ofNat 32 (plannedWords op k),
      seed := seed.getD 0, phase := firstPhase op k seed } := by
  obtain ⟨h, -⟩ | ⟨h, -⟩ | ⟨-, -, h⟩ := accept_cases op k seed s
  · omega
  · exact absurd (Int.ofNat_lt.1 h) (not_lt.2 hk)
  · exact h

theorem accept_sameSources (op : Op) (n : Int) (seed : Option Word64) (s : State) :
    SameSources (accept op n seed s) s := by
  obtain ⟨-, h⟩ | ⟨-, h⟩ | ⟨-, -, h⟩ := accept_cases op n seed s
  all_goals rw [h]; exact ⟨rfl, rfl, rfl, rfl⟩

theorem stepCount_of_pos {k : Nat} (hk0 : 0 < k) (hk : k ≤ 2147483647) (op : Op) (seed : Option Word64) :
    stepCount op k seed =
      (if drawsSeed op seed then 1 else 0) + (if takesSeed op then 1 else 0) + (plannedWords op k + k) + 1 := by
  have h0 : ¬(k : Int) ≤ 0 := by omega
  have hmax : ¬(k : Int) > nMax := by simp only [nMax]; omega
  rw [stepCount, if_neg h0, if_neg hmax, Int.toNat_natCast]
  omega

/-- ACCEPT of a count above 0 is followed by the run, whichever phase it leads to (R75, R82). -/
theorem runsTo_of_accept {k : Nat} {s' s1 : State} {v : Word64} (hk0 : 0 < k) (hk : k ≤ 2147483647)
    (ht : seed.isSome = true → takesSeed op = true) (hs : SameSources s' s)
    (hseed : seedSource op seed s = some (v, s1))
    (hread : readWords (srcSel op) (plannedWords op k) s1 = some (ws, z)) :
    RunsTo ((if drawsSeed op seed then 1 else 0) + (if takesSeed op then 1 else 0) + (plannedWords op k + k))
      (accept op k seed s')
      (finished op ws s'.out z { accept op k seed s' with seed := v, seedDrawn := drawsSeed op seed }) := by
  have hacc := accept_of_legal hk seed s' (op := op)
  have hinv := CommandInv.of_accept ht hk hacc
  have hsrc := (accept_sameSources op k seed s').trans hs
  have hout : (accept op k seed s').out = s'.out := (accept_output ..).1
  generalize accept op k seed s' = a at *
  have hn : a.n.toNat = k := by
    rw [hacc]
    exact toNat_ofNat_of_le hk
  have hph : a.phase = firstPhase op k seed := by rw [hacc]
  have hnw : a.numWords.toNat = plannedWords op k := by rw [hinv.numWords, hn]
  have hsum : plannedWords op k + k = a.numWords.toNat + a.n.toNat := by rw [hnw, hn]
  rw [← hnw] at hread
  rw [hsum, ← hout]
  obtain ⟨hn0, -⟩ | ⟨-, hts, hsd, hp⟩ | ⟨-, hts, hsd, hp⟩ | ⟨-, hts, hp⟩ := firstPhase_cases op k seed
  · omega
  · obtain ⟨x, rfl⟩ := Option.isSome_iff_exists.1 hsd
    obtain ⟨rfl, rfl⟩ : x = v ∧ seedWrite x s = s1 := by simpa [seedSource, hts] using hseed
    have hx : a.seed = x := by rw [hacc]; rfl
    have ha : { a with seed := x, seedDrawn := false } = a := by rw [hacc]; rfl
    have hdraws : drawsSeed op (some x) = false := by simp [drawsSeed]
    rw [hdraws, hts, ha, if_neg Bool.false_ne_true, if_pos rfl, Nat.zero_add, Nat.add_comm]
    exact runsTo_of_seedload hinv (hph.trans hp) hsrc (hx ▸ hread)
  · obtain rfl : seed = none := by simpa using hsd
    obtain ⟨w, t, hw, rfl, rfl⟩ :
        ∃ w t, next32 s = some (w, t) ∧ w.setWidth 64 = v ∧ seedWrite (w.setWidth 64) t = s1 := by
      simpa [seedSource, hts] using hseed
    have hdraws : drawsSeed op none = true := by simp [drawsSeed, hts]
    rw [hdraws, hts, if_pos rfl, Nat.add_comm]
    exact runsTo_of_seeddraw hinv (hph.trans hp) hsrc hw hread
  · obtain ⟨rfl, rfl⟩ : 0 = v ∧ s = s1 := by simpa [seedSource, hts] using hseed
    obtain rfl : seed = none := by simpa [hts] using ht
    have hd : a.wordsDrawn = 0 := by rw [hacc]; rfl
    have hf : a.filled = 0 := by rw [hacc]; rfl
    have ha : { a with seed := 0, seedDrawn := false } = a := by rw [hacc]; rfl
    have hdraws : drawsSeed op none = false := by simp [drawsSeed, hts]
    have hrem : remaining a = a.numWords.toNat + a.n.toNat := by simp [remaining, hd, hf]
    rw [hdraws, hts, ha, if_neg Bool.false_ne_true, Nat.zero_add, ← hrem]
    exact (hinv.running_of_fetch (hph.trans hp) (hn ▸ hk0) hd hf hsrc hread).runsTo

theorem RunsTo.of_accept {n : Int} {t : State} {k : Nat} (ha : s.phase.accepting = true)
    (hp : s.cmdPort = r :: rest) (hd : decodeCmd r = .instr (Instr.ofCommand op n seed))
    (hs : seed.isSome = true → takesSeed op = true)
    (h : RunsTo k (accept op n seed { sampled s with cmdPort := rest }) t) : RunsTo (k + 1) s t := by
  refine h.of_step (fun hr => step_of_presented hr ha hp hd hs) ?_
  obtain ⟨-, h⟩ | ⟨-, h⟩ | ⟨-, -, h⟩ := accept_cases op n seed { sampled s with cmdPort := rest }
  all_goals exact (congrArg State.resetIn h :)

/-- R72, R84: a legal command runs to DONE in `stepCount` steps, and leaves the slots of its word sequence. -/
theorem exists_runsTo_done {k : Nat} {s1 : State} {v : Word64} (hk : k ≤ 2147483647)
    (ha : s.phase.accepting = true) (hp : s.cmdPort = r :: rest)
    (hd : decodeCmd r = .instr (Instr.ofCommand op k seed)) (ht : seed.isSome = true → takesSeed op = true)
    (hseed : seedSource op seed s = some (v, s1))
    (hread : readWords (srcSel op) (plannedWords op k) s1 = some (ws, z)) :
    ∃ t, RunsTo (stepCount op k seed) s t ∧ t.phase = .done ∧ t.filled.toNat = k ∧
      t.wordsDrawn.toNat = plannedWords op k ∧ t.out = writeSlots op ws k s.out := by
  obtain rfl | hk0 := k.eq_zero_or_pos
  · refine ⟨_, .of_accept ha hp hd ht (.zero _), ?_⟩
    rw [accept_of_legal hk]
    exact ⟨rfl, rfl, (plannedWords_zero op).symm, rfl⟩
  · have hrun := RunsTo.of_accept ha hp hd ht (runsTo_of_accept (s := s) hk0 hk ht ⟨rfl, rfl, rfl, rfl⟩ hseed hread)
    have hn : (BitVec.ofInt 32 (k : Int)).toNat = k := toNat_ofNat_of_le hk
    refine ⟨_, stepCount_of_pos hk0 hk op seed ▸ hrun, rfl, ?_⟩
    rw [accept_of_legal hk]
    exact ⟨hn, toNat_ofNat_of_le ((plannedWords_le op k).trans hk), congrArg (writeSlots op ws · s.out) hn⟩

end Run

/-- Settles O56: the run leaves the slots of its word sequence, and word i div W exists for each slot i below n. -/
theorem commandGivesSamples : Obligations.CommandGivesSamples := by
  intro s s1 s2 r rest op n seed v ws h0 hmax ha hp hd ht hr hseed hread
  obtain ⟨k, rfl⟩ := Int.eq_ofNat_of_zero_le h0
  obtain ⟨t, hrun, hdone, hfill, hdrawn, hout⟩ :=
    exists_runsTo_done (Int.ofNat_le.1 hmax) ha hp hd ht hseed hread
  have hslot (i : Nat) := hout ▸ read_writeSlots op ws k s.out i
  have hlen : ws.length = plannedWords op k := readWords_length hread
  refine ⟨_, hrun hr, hdone, hfill, hdrawn, hlen.trans hdrawn.symm, fun i hi hraw => ?_,
    fun i hi hraw => ?_, fun i hi => (hslot i).trans (if_neg hi.not_gt)⟩
  · have hlt : i / usableBits op < ws.length := by
      rw [hlen, plannedWords_of_not_raw hraw, lt_ceilWords_iff (usableBits_bounds hraw).1]
      exact (Nat.div_mul_le_self ..).trans_lt hi
    have hw := List.getElem?_eq_getElem hlt
    refine ⟨_, hw, (hslot i).trans ((if_pos hi).trans ?_)⟩
    rw [sampleSlot_of_not_raw hraw hw, slotOf_of_not_raw hraw]
  · have hlt : i < ws.length := by rwa [hlen, plannedWords_of_raw hraw]
    have hw := List.getElem?_eq_getElem hlt
    exact ⟨_, hw, (hslot i).trans ((if_pos hi).trans (congrArg some (sampleSlot_of_raw hraw hw)))⟩

end Sys2Proof.Machine
end

section
/-! PROOFS. ACCEPT of the six commands (spec/42_sequencer.md R75), and that a busy block does not read the command port
(R75, R112). -/

namespace Sys2Proof.Machine

open Sys2Proof

section Accept

variable {op : Op} {n : Int} {s t : State} {r : CmdRecord} {rest : List CmdRecord}

/-! ### ACCEPT (R75) -/

theorem accept_of_invalid (h : n < 0 ∨ nMax < n) (op : Op) (seed : Option Word64) (s : State) :
    accept op n seed s =
      raiseError (if n < 0 then .nNegative else .nTooLarge) (latchCommand (cwOf op seed.isSome) s) := by
  obtain ⟨hneg, hacc⟩ | ⟨hbig, hacc⟩ | ⟨h0, hmax, -⟩ := accept_cases op n seed s
  · rw [hacc, if_pos hneg]
  · have h0 : ¬n < 0 := by simp only [nMax] at hbig; omega
    rw [hacc, if_neg h0]
  · omega

theorem firstPhase_eq (op : Op) (n : Int) (seed : Option Word64) :
    firstPhase op n seed = if n = 0 then .done else if !takesSeed op then .fetch
      else if seed.isSome then .seedload else .seeddraw := by
  unfold firstPhase
  cases takesSeed op <;> rfl

/-- The step of an accepting phase with a record presented: an error for an illegal word, ACCEPT for a legal one. -/
theorem step_presented_cases (hr : resetNow s = false) (ha : s.phase.accepting = true) (hp : s.cmdPort = r :: rest)
    (h : step s = .next t) :
    (∃ why, decodeCmd r = .illegal why ∧ t = acceptIllegal r.cw { sampled s with cmdPort := rest }) ∨
    ∃ op seed, decodeCmd r = .instr (Instr.ofCommand op r.nIn.toInt seed) ∧ r.cw = cwOf op seed.isSome ∧
      (seed.isSome = true → takesSeed op = true) ∧
      t = accept op r.nIn.toInt seed { sampled s with cmdPort := rest } := by
  obtain ⟨hr', -⟩ | ⟨-, -, ⟨hp', -⟩ | ⟨r', rest', hp', hacc⟩⟩ | ⟨-, ha', -⟩ := step_cases h
  · exact absurd (hr.symm.trans hr') Bool.false_ne_true
  · exact absurd (hp.symm.trans hp') (List.cons_ne_nil _ _)
  · obtain ⟨rfl, rfl⟩ := List.cons.inj (hp.symm.trans hp')
    exact hacc.imp_right fun ⟨op, seed, hd, hcw, hs, ht⟩ => ⟨op, seed, hd, hcw, fun hv => (hs hv).1, ht⟩
  · exact absurd (ha'.symm.trans ha) Bool.false_ne_true

/-! ### A busy block does not read the command port (R75, R112) -/

theorem next32_of_cmdPort (s : State) (q : List CmdRecord) :
    next32 { s with cmdPort := q } = (next32 s).map fun a => (a.1, { a.2 with cmdPort := q }) := by
  cases h : next32 s with
  | none => exact (next32_none_iff _).2 ((next32_none_iff s).1 h)
  | some a =>
    obtain ⟨w, t⟩ := a
    obtain ⟨t', h', ht⟩ := next32_congr (s := s) (s' := { s with cmdPort := q }) ⟨rfl, rfl, rfl, rfl⟩ h
    rw [h', next32_frame h', next32_frame h, ht.hg, ht.src32, Option.map_some]

theorem next64_of_cmdPort (s : State) (q : List CmdRecord) :
    next64 { s with cmdPort := q } = (next64 s).map fun a => (a.1, { a.2 with cmdPort := q }) := by
  cases h : next64 s with
  | none => exact (next64_none_iff _).2 ((next64_none_iff s).1 h)
  | some a =>
    obtain ⟨w, t⟩ := a
    obtain ⟨t', h', ht⟩ := next64_congr (s := s) (s' := { s with cmdPort := q }) ⟨rfl, rfl, rfl, rfl⟩ h
    rw [h', next64_frame h', next64_frame h, ht.g64, ht.src64, Option.map_some]

theorem readWord_of_cmdPort (src : SrcSel) (s : State) (q : List CmdRecord) :
    readWord src { s with cmdPort := q } = (readWord src s).map fun a => (a.1, { a.2 with cmdPort := q }) := by
  cases src with
  | src32 =>
    simp only [readWord, next32_of_cmdPort]
    cases next32 s <;> rfl
  | src64 => exact next64_of_cmdPort s q

theorem seedDrawStep_of_cmdPort (s : State) (q : List CmdRecord) :
    seedDrawStep { s with cmdPort := q } = { seedDrawStep s with cmdPort := q } := by
  simp only [seedDrawStep, next32_of_cmdPort]
  cases next32 s <;> rfl

theorem fetchStep_of_cmdPort (op : Op) (s : State) (q : List CmdRecord) :
    fetchStep op { s with cmdPort := q } = { fetchStep op s with cmdPort := q } := by
  simp only [fetchStep, readWord_of_cmdPort]
  cases readWord (srcSel op) s <;> rfl

theorem busyStep_of_cmdPort (op : Op) (s : State) (q : List CmdRecord) :
    busyStep op { s with cmdPort := q } = { busyStep op s with cmdPort := q } := by
  unfold busyStep
  dsimp only
  split
  · exact seedDrawStep_of_cmdPort s q
  · rfl
  · exact fetchStep_of_cmdPort op s q
  all_goals rfl

theorem busyStep_cmdPort (ha : s.phase.accepting = false) : (busyStep op s).cmdPort = s.cmdPort := by
  obtain ⟨-, -, h⟩ | ⟨-, -, _, _, _, -, h⟩ | ⟨-, h⟩ | ⟨-, -, -, h⟩ | ⟨-, -, -, h⟩ | ⟨-, -, -, _, _, _, -, h⟩ |
    ⟨-, -, -, _, _, _, -, h⟩ | ⟨-, h⟩ := busyStep_cases (op := op) ha
  all_goals exact (congrArg State.cmdPort h :)

theorem step_of_cmdPort (ha : s.phase.accepting = false) (h : step s = .next t) (q : List CmdRecord) :
    step { s with cmdPort := q } = .next { t with cmdPort := q } := by
  obtain ⟨hr, rfl⟩ | ⟨-, ha', -⟩ | ⟨hr, -, op, ho, rfl⟩ := step_cases h
  · exact step_of_reset (s := { s with cmdPort := q }) hr
  · exact absurd (ha.symm.trans ha') Bool.false_ne_true
  · rw [step_of_busy (s := { s with cmdPort := q }) hr ha ho]
    exact congrArg _ (busyStep_of_cmdPort op (sampled s) q)

theorem step_keeps_cmdPort (ha : s.phase.accepting = false) (h : step s = .next t) : t.cmdPort = s.cmdPort := by
  obtain ⟨-, rfl⟩ | ⟨-, ha', -⟩ | ⟨-, -, op, -, rfl⟩ := step_cases h
  · rfl
  · exact absurd (ha.symm.trans ha') Bool.false_ne_true
  · exact busyStep_cmdPort (s := sampled s) ha

end Accept

/-- Settles O12: ACCEPT's three outcomes, the illegal word's error, and the busy steps, none of which reads the port. -/
theorem acceptReadsValidatesSetsUp : Obligations.AcceptReadsValidatesSetsUp := by
  refine ⟨fun op n seed s hs ha => ?_, fun s r rest why hr ha hp hd => step_of_illegal hr ha hp hd,
    fun s t q ha h => ⟨step_keeps_cmdPort ha h, step_of_cmdPort ha h q⟩⟩
  rw [exec_of_accepting n ha hs]
  refine ⟨fun h0 hmax => ?_, fun hbad => by rw [accept_of_invalid hbad]; rfl⟩
  obtain ⟨k, rfl⟩ := Int.eq_ofNat_of_zero_le h0
  rw [accept_of_legal (Int.ofNat_le.1 hmax), firstPhase_eq]
  rfl

end Sys2Proof.Machine
end


section
/-! PROOFS. Every change of PHASE (spec/42_sequencer.md R82). -/

namespace Sys2Proof.Machine

open Sys2Proof

section Phases

variable {op : Op} {n : Int} {seed : Option Word64} {s t : State} {r : CmdRecord} {rest : List CmdRecord}

/-! ### Where the steps lead (R82) -/

theorem accept_phase (op : Op) (n : Int) (seed : Option Word64) (s : State) :
    (accept op n seed s).phase = if n < 0 ∨ nMax < n then .error else firstPhase op n seed := by
  split_ifs with hbad
  · rw [accept_of_invalid hbad]
    rfl
  · obtain ⟨hneg, -⟩ | ⟨hbig, -⟩ | ⟨-, -, hacc⟩ := accept_cases op n seed s
    · exact absurd (.inl hneg) hbad
    · exact absurd (.inr hbig) hbad
    · rw [hacc]

theorem busyStep_of_seeddraw (hp : s.phase = .seeddraw) : busyStep op s = seedDrawStep s := by
  simp only [busyStep, hp]

theorem busyStep_of_seedload (hp : s.phase = .seedload) : busyStep op s = seedLoadStep s := by
  simp only [busyStep, hp]

theorem busyStep_of_fetch (hp : s.phase = .fetch) : busyStep op s = fetchStep op s := by
  simp only [busyStep, hp]

theorem readWord_none_iff (src : SrcSel) (s : State) :
    readWord src s = none ↔ (src = .src32 ∧ s.src32 = .words []) ∨ (src = .src64 ∧ s.src64 = .words []) := by
  cases src <;> simp [readWord, next32_none_iff, next64_none_iff]

theorem seedDrawStep_phase (s : State) :
    (seedDrawStep s).phase = if s.src32 = .words [] then s.phase else .seedload := by
  obtain ⟨hnone, h⟩ | ⟨w, t, hw, h⟩ := seedDrawStep_cases s
  · rw [h, if_pos ((next32_none_iff s).1 hnone), wait_phase]
  · rw [h, if_neg (mt (next32_none_iff s).2 (by simp [hw]))]

theorem fetchStep_phase (op : Op) (s : State) :
    (fetchStep op s).phase =
      if (srcSel op = .src32 ∧ s.src32 = .words []) ∨ (srcSel op = .src64 ∧ s.src64 = .words []) then s.phase
      else .emit := by
  obtain ⟨hnone, h⟩ | ⟨w, t, hw, h⟩ := fetchStep_cases op s
  · rw [h, if_pos ((readWord_none_iff ..).1 hnone), wait_phase]
  · rw [h, if_neg (mt (readWord_none_iff ..).2 (by simp [hw]))]

theorem emitPhase_eq (op : Op) (s : State) :
    emitPhase op s = if s.filled + 1 = s.n then .done
      else if isRaw op = true ∨ s.j.toNat + 1 = usableBits op then .fetch else .emit := by
  unfold emitPhase
  cases isRaw op <;> simp

/-- Only ACCEPT enters SEEDDRAW. -/
theorem busyStep_phase_ne_seeddraw (hp : s.phase ≠ .seeddraw) : (busyStep op s).phase ≠ .seeddraw := by
  cases hs : s.phase <;> simp only [busyStep, hs]
  case seeddraw => exact absurd hs hp
  case seedload => nofun
  case fetch =>
    rw [fetchStep_phase, hs]
    split_ifs <;> nofun
  case emit =>
    show emitPhase op s ≠ _
    rw [emitPhase_eq]
    split_ifs <;> nofun
  all_goals simp [hs]

theorem step_of_no_command (hr : resetNow s = false) (ha : s.phase.accepting = true) (hp : s.cmdPort = []) :
    step s = .next (wait (sampled s)) := by
  simp [step, turn, hr, ha, acceptTurn, hp]

/-- The step of a busy phase is that of an operation, the one CFG holds. -/
theorem step_busy_cases (hr : resetNow s = false) (ha : s.phase.accepting = false) (h : step s = .next t) :
    ∃ op, s.op = some op ∧ t = busyStep op (sampled s) := by
  obtain ⟨hr', -⟩ | ⟨-, ha', -⟩ | ⟨-, -, hbusy⟩ := step_cases h
  · exact absurd (hr.symm.trans hr') Bool.false_ne_true
  · exact absurd (ha.symm.trans ha') Bool.false_ne_true
  · exact hbusy

theorem accepting_of_phase {p : Phase} (hp : s.phase = p) : s.phase.accepting = p.accepting := congrArg _ hp

/-- The seeded operations are numbers 4 and 5 (R45, R46). -/
theorem takesSeed_iff_opCode (op : Op) : takesSeed op = true ↔ opCode op = 4 ∨ opCode op = 5 := by
  cases op <;> decide

/-- Where a validated command goes, read off its command word (R75, R82). -/
theorem firstPhase_of_cw (n : Int) (hcw : r.cw = cwOf op seed.isSome) :
    firstPhase op n seed = if n = 0 then .done
      else if cwOp r.cw = 4 ∨ cwOp r.cw = 5 then (if cwSeedv r.cw then .seedload else .seeddraw) else .fetch := by
  simp only [hcw, cwOp_cwOf, cwSeedv_cwOf, ← takesSeed_iff_opCode, firstPhase]

theorem step_presented_phase {i : Instr} (hr : resetNow s = false) (ha : s.phase.accepting = true)
    (hp : s.cmdPort = r :: rest) (hd : decodeCmd r = .instr i) (h : step s = .next t) :
    t.phase = if r.nIn.toInt < 0 ∨ nMax < r.nIn.toInt then .error
      else if r.nIn.toInt = 0 then .done
      else if cwOp r.cw = 4 ∨ cwOp r.cw = 5 then (if cwSeedv r.cw then .seedload else .seeddraw) else .fetch := by
  obtain ⟨why, hd', -⟩ | ⟨op, seed, -, hcw, -, rfl⟩ := step_presented_cases hr ha hp h
  · simp [hd] at hd'
  · rw [accept_phase, firstPhase_of_cw _ hcw]

end Phases

/-- Settles O25: the step is one of RESET, waiting, ACCEPT and the busy phases' own, whose phases are known. -/
theorem phaseTransitions : Obligations.PhaseTransitions := by
  intro s t h
  refine ⟨fun hr => ?_, fun hr ha hp => ?_, fun r rest hr ha hp => ⟨fun hbad => ?_, fun i hd h0 => ?_,
    fun i hd hpos hmax => ?_⟩, fun hr hp => ?_, fun hr hp => ?_, fun op hr hp ho => ?_, fun op hr hp ho => ?_⟩
  · obtain rfl : resetStep (sampled s) = t := by simpa [step_of_reset hr] using h
    rfl
  · obtain rfl : wait (sampled s) = t := by simpa [step_of_no_command hr ha hp] using h
    rfl
  · cases hd : decodeCmd r with
    | illegal why =>
      rw [step_of_illegal hr ha hp hd, Host.Outcome.next.injEq] at h
      rw [← h]
      rfl
    | instr i =>
      rw [step_presented_phase hr ha hp hd h]
      exact if_pos (hbad.resolve_left (by simp [hd]))
  · rw [step_presented_phase hr ha hp hd h, h0]
    rfl
  · have hgood : ¬(r.nIn.toInt < 0 ∨ nMax < r.nIn.toInt) := by simp only [nMax]; omega
    rw [step_presented_phase hr ha hp hd h, if_neg hgood, if_neg hpos.ne']
  · obtain ⟨op, -, rfl⟩ := step_busy_cases hr (accepting_of_phase hp) h
    rw [busyStep_of_seeddraw (s := sampled s) hp, seedDrawStep_phase, sampled_phase, hp, sampled_src32]
  · obtain ⟨op, -, rfl⟩ := step_busy_cases hr (accepting_of_phase hp) h
    rw [busyStep_of_seedload (s := sampled s) hp]
    rfl
  · rw [step_of_busy hr (accepting_of_phase hp) ho, Host.Outcome.next.injEq] at h
    rw [← h, busyStep_of_fetch (s := sampled s) hp, fetchStep_phase, sampled_phase, hp, sampled_src32, sampled_src64]
  · rw [step_of_emit hr hp ho, Host.Outcome.next.injEq] at h
    rw [← h]
    exact emitPhase_eq op (sampled s)

end Sys2Proof.Machine
end


section
/-! PROOFS. The busy steps SEEDDRAW, FETCH and EMIT (spec/42_sequencer.md R76, R78 to R80), and that no sampling word is
read too early (R83). -/

namespace Sys2Proof.Machine

open Sys2Proof

section BusySteps

variable {op : Op} {v : Bool} {s t u : State}

/-! ### SEEDDRAW (R76) -/

theorem op_of_cwOp (hc : cwOp s.cfg = opCode op) : s.op = some op := by rw [State.op, hc, opOfCode_opCode]

/-- A NEXT32 that reports a word was answered with it. -/
theorem next32_of_event {w : Word32} (h : exec .next32 s = .next u) (he : u.lastEvent = some (.next32 w)) :
    next32 s = some (w, u) := by
  cases hn : next32 s with
  | none =>
    obtain rfl : wait s = u := by simpa [exec, execNext32, hn] using h
    cases he
  | some a =>
    obtain ⟨w', t⟩ := a
    obtain rfl : t = u := by simpa [exec, execNext32, hn] using h
    rw [next32_frame hn] at he
    cases he
    rfl

/-- A NEXT64 that reports a word was answered with it. -/
theorem next64_of_event {w : Word64} (h : exec .next64 s = .next u) (he : u.lastEvent = some (.next64 w)) :
    next64 s = some (w, u) := by
  cases hn : next64 s with
  | none =>
    obtain rfl : wait s = u := by simpa [exec, execNext64, hn] using h
    cases he
  | some a =>
    obtain ⟨w', t⟩ := a
    obtain rfl : t = u := by simpa [exec, execNext64, hn] using h
    rw [next64_frame hn] at he
    cases he
    rfl

theorem next32_drawn_of_unif {w : Word32} (h : next32 s = some (w, u)) (hs : s.src32 = .unif) :
    u.hg.drawn = s.hg.drawn + 2 := by
  obtain ⟨-, rfl⟩ : s.hg.nextWord.1 = w ∧ { s with
      hg := s.hg.nextWord.2, lastEvent := some (.next32 s.hg.nextWord.1) } = u := by simpa [next32, hs] using h
  exact HostGen.nextWord_drawn s.hg

theorem seedDrawStep_of_answer {w : Word32} (h : next32 s = some (w, u)) :
    seedDrawStep s = { s with
      seed := w.setWidth 64, seedDrawn := true, phase := .seedload, hg := u.hg, src32 := u.src32,
      lastEvent := some (.next32 w) } := by
  simp only [seedDrawStep, h]
  rw [next32_frame h]

theorem CommandInv.wordsDrawn_of_seeddraw (h : CommandInv op v s) (hp : s.phase = .seeddraw) : s.wordsDrawn = 0 := by
  have htab := h.table
  simp only [consumption, hp] at htab
  obtain ⟨-, -, -, -, -, hd, -⟩ := htab
  exact BitVec.eq_of_toNat_eq hd

/-- The operations that take a seed are the 64-bit ones. -/
theorem ofCommand_of_takesSeed (ht : takesSeed op = true) (n : Int) (seed : Option Word64) :
    Instr.ofCommand op n seed = .bern64 n seed ∨ Instr.ofCommand op n seed = .rade64 n seed := by
  cases op
  case bern64 => exact .inl rfl
  case rade64 => exact .inr rfl
  all_goals cases ht

/-- SEEDDRAW is entered by ACCEPT of a seedless 64-bit command with a count in 1 .. 2147483647, and by no other step. -/
theorem step_enters_seeddraw (h : step s = .next t) (hs : s.phase ≠ .seeddraw) (ht : t.phase = .seeddraw) :
    ∃ r rest n, s.cmdPort = r :: rest ∧ 0 < n ∧ n ≤ 2147483647 ∧
      (decodeCmd r = .instr (.bern64 n none) ∨ decodeCmd r = .instr (.rade64 n none)) := by
  obtain ⟨-, rfl⟩ | ⟨-, -, hacc⟩ | ⟨-, -, op, -, rfl⟩ := step_cases h
  · cases ht
  · obtain ⟨-, rfl⟩ | ⟨r, rest, hp, ⟨why, -, rfl⟩ | ⟨op, seed, hd, -, -, rfl⟩⟩ := hacc
    · exact absurd ht hs
    · cases ht
    · rw [accept_phase] at ht
      split_ifs at ht with hbad
      obtain ⟨-, hf⟩ | ⟨-, -, -, hf⟩ | ⟨hn, hts, hnone, -⟩ | ⟨-, -, hf⟩ := firstPhase_cases op r.nIn.toInt seed
      case inr.inr.inl =>
        obtain rfl : seed = none := by simpa using hnone
        simp only [nMax] at hbad
        refine ⟨r, rest, r.nIn.toInt, hp, by omega, by omega, ?_⟩
        rw [hd]
        exact (ofCommand_of_takesSeed hts _ _).imp (congrArg _) (congrArg _)
      all_goals exact absurd (hf.symm.trans ht) (by decide)
  · exact absurd ht (busyStep_phase_ne_seeddraw (s := sampled s) hs)

/-! ### FETCH (R78, R83) -/

/-- FETCH is entered only with a slot unfilled and every usable bit so far read consumed. -/
theorem CommandInv.filled_of_fetch (h : CommandInv op v s) (hp : s.phase = .fetch) :
    s.filled.toNat < s.n.toNat ∧
      s.filled.toNat = s.wordsDrawn.toNat * (if isRaw op then 1 else usableBits op) := by
  have htab := h.table
  simp only [consumption, hp] at htab
  obtain ⟨-, hf, htab⟩ := htab
  refine ⟨hf, ?_⟩
  cases hraw : isRaw op with
  | true =>
    simp only [hraw, if_true] at htab
    obtain ⟨hfd, -⟩ := htab
    rw [hfd, if_pos rfl, Nat.mul_one]
  | false =>
    simp only [hraw, Bool.false_eq_true, if_false] at htab
    obtain ⟨hfd, -⟩ := htab
    rw [hfd, if_neg Bool.false_ne_true]

/-- A busy step reports a word read only where it reads one: in FETCH, or in SEEDDRAW for the seed. -/
theorem busyStep_word_cases (ha : s.phase.accepting = false)
    (he : (∃ w, (busyStep op s).lastEvent = some (.next32 w) ∧ s.phase ≠ .seeddraw) ∨
      ∃ w, (busyStep op s).lastEvent = some (.next64 w)) :
    s.phase = .fetch ∧ (busyStep op s).wordsDrawn = s.wordsDrawn + 1 := by
  obtain ⟨-, -, h⟩ | ⟨hp, -, _, _, _, -, h⟩ | ⟨-, h⟩ | ⟨-, -, -, h⟩ | ⟨-, -, -, h⟩ | ⟨hp, -, -, _, _, _, -, h⟩ |
    ⟨hp, -, -, _, _, _, -, h⟩ | ⟨-, h⟩ := busyStep_cases (op := op) ha
  case inr.inr.inr.inr.inr.inl => exact ⟨hp, by rw [h]⟩
  case inr.inr.inr.inr.inr.inr.inl => exact ⟨hp, by rw [h]⟩
  case inr.inl => simp [h, hp] at he
  all_goals simp [h] at he

/-! ### EMIT (R79, R80) -/

theorem mapSel_eq_rade_iff (op : Op) : mapSel op = some .rade ↔ op = .rade ∨ op = .rade64 := by
  cases op <;> decide

theorem otypeOf_eq (op : Op) : otypeOf op = if op = .logi then .bool else .int := by
  cases op <;> rfl

/-- RBITS's slot is the word's low half, as a field of the word (R70). -/
theorem slotOf_rbits (w : Word64) (j : Nat) :
    slotOf .rbits w j = { val := w.extractLsb' 0 32, otype := .int } := by
  rw [← BitVec.setWidth_eq_extractLsb' (by decide)]
  rfl

theorem CommandInv.j_of_raw (h : CommandInv op v s) (hp : s.phase = .emit) (hraw : isRaw op = true) : s.j = 0 := by
  have htab := h.table
  simp only [consumption, hp, hraw, if_true] at htab
  obtain ⟨-, -, -, -, -, hj⟩ := htab
  exact BitVec.eq_of_toNat_eq hj

end BusySteps

/-- Settles O20: the draw is the seed; on entry the phase is `firstPhase`'s. -/
theorem seedDrawStepDrawsDefaultSeed : Obligations.SeedDrawStepDrawsDefaultSeed := by
  refine ⟨fun op n s u w _ hp hc h he => ?_, fun s t h hs ht => step_enters_seeddraw h hs ht⟩
  have ha : s.phase.accepting = false := accepting_of_phase hp
  have hw := next32_of_event h he
  refine ⟨?_, BitVec.toNat_setWidth_of_le (by decide), next32_drawn_of_unif hw, fun hi => ?_⟩
  · rw [exec_of_busy n none ha hc, busyStep_of_seeddraw hp, seedDrawStep_of_answer hw]
  · obtain ⟨v, hinv⟩ := CommandInv.of_wordInv hi ha (op_of_cwOp hc)
    exact hinv.wordsDrawn_of_seeddraw hp

/-- Settles O22: the word that the transaction reports is the one FETCH latches. -/
theorem fetchStepReadsOneWord : Obligations.FetchStepReadsOneWord := by
  refine ⟨fun op n seed s u w hp hc hsrc h he => ⟨?_, BitVec.toNat_setWidth_of_le (by decide)⟩,
    fun op n seed s u w hp hc hsrc h he => ?_, fun s op hi hp ho => ?_⟩
  · have hw := next32_of_event h he
    have hread : readWord (srcSel op) s = some (w.setWidth 64, u) := by rw [hsrc, readWord, hw, Option.map_some]
    rw [exec_of_busy n seed (accepting_of_phase hp) hc, busyStep_of_answer hp hread, next32_frame hw]
  · have hw := next64_of_event h he
    have hread : readWord (srcSel op) s = some (w, u) := by rw [hsrc, readWord, hw]
    rw [exec_of_busy n seed (accepting_of_phase hp) hc, busyStep_of_answer hp hread, next64_frame hw]
  · obtain ⟨v, hinv⟩ := CommandInv.of_wordInv hi (accepting_of_phase hp) ho
    obtain ⟨hlt, hf⟩ := hinv.filled_of_fetch hp
    exact ⟨hlt, fun hraw => by rwa [hraw, if_neg Bool.false_ne_true] at hf⟩

/-- Settles O31: a word is read in FETCH alone, where fewer words than planned are drawn. -/
theorem noOverRead : Obligations.NoOverRead := by
  intro s t op hi ho h he
  obtain ⟨-, rfl⟩ | ⟨-, -, hacc⟩ | ⟨-, ha, op', ho', rfl⟩ := step_cases h
  · simp at he
  · obtain ⟨-, rfl⟩ | ⟨r, rest, -, ⟨why, -, rfl⟩ | ⟨op, seed, -, -, -, rfl⟩⟩ := hacc
    · simp at he
    · simp [acceptIllegal] at he
    · simp at he
  · obtain rfl : op' = op := Option.some.inj (ho'.symm.trans ho)
    obtain ⟨hp, hd⟩ := busyStep_word_cases (s := sampled s) ha he
    obtain ⟨v, hinv⟩ := CommandInv.of_wordInv hi ha ho
    obtain ⟨hlt, hf⟩ := hinv.filled_of_fetch hp
    have hdn := hinv.wordsDrawn_lt hp
    have hsucc := toNat_succ_of_lt hdn
    obtain ⟨-, -, hnw, -⟩ := busyStep_keeps_command (s := sampled s) (op := op') ha
    rw [hd, hnw]
    exact ⟨hp, hlt, hsucc, hsucc.trans_le hdn, hf⟩

/-- Settles O23: the step is `emitStep`, whose slot is the mapped bit. -/
theorem emitStepWritesOneBit : Obligations.EmitStepWritesOneBit := by
  refine ⟨fun op n seed s val hraw hp hc hval => ?_, fun s op hi hp ho hraw => ?_⟩
  · have hslot : slotOf op s.word s.j.toNat = { val := val, otype := if op = .logi then .bool else .int } := by
      rw [slotOf_of_not_raw hraw, otypeOf_eq, hval]
      simp only [mapSel_eq_rade_iff]
    rw [exec_of_emit n seed hp hc, emitStep, hslot, emitPhase_eq, hraw]
    simp only [Bool.false_eq_true, false_or, if_false]
    rfl
  · obtain ⟨v, hinv⟩ := CommandInv.of_wordInv hi (accepting_of_phase hp) ho
    exact ⟨hinv.j_lt hp hraw, hinv.filled_lt hp⟩

/-- Settles O24: the step is `emitStep`, whose slot is the word's low half. -/
theorem emitStepWritesRawWord : Obligations.EmitStepWritesRawWord := by
  intro n s hp hc
  refine ⟨_, exec_of_emit (op := .rbits) n none hp hc, ?_, ?_, fun a ha => Memory.read_write_other _ _ _ _ ha,
    fun hi => ?_⟩
  · rw [← slotOf_rbits s.word s.j.toNat]
    rfl
  · rw [emitStep_out, Memory.read_write_same, slotOf_rbits]
  · obtain ⟨v, hinv⟩ := CommandInv.of_wordInv hi (accepting_of_phase hp) (op_of_cwOp (op := .rbits) hc)
    exact hinv.j_of_raw hp rfl

end Sys2Proof.Machine
end


section
/-! PROOFS. A whole command as a function (spec/42_sequencer.md R84): the run of the steps, which ends in `finished`,
ends in the state `runCommand` gives. -/

namespace Sys2Proof.Machine

open Sys2Proof

section RunFunction

variable {op : Op} {n : Int} {seed : Option Word64} {src : SrcSel} {k : Nat} {w : Word64} {ws : List Word64}
  {s t : State} {r : CmdRecord} {rest : List CmdRecord}

/-! ### What the word port leaves of the host's inputs and the model's own counter -/

/-- The fields no transaction touches and no step of a run writes but by sampling an input. -/
structure SameInputs (s t : State) : Prop where
  cmdPort : s.cmdPort = t.cmdPort
  resetIn : s.resetIn = t.resetIn
  freeIx : s.freeIx = t.freeIx

theorem SameInputs.trans {s t u : State} (h : SameInputs s t) (h' : SameInputs t u) : SameInputs s u :=
  ⟨h.cmdPort.trans h'.cmdPort, h.resetIn.trans h'.resetIn, h.freeIx.trans h'.freeIx⟩

theorem readWord_sameInputs (h : readWord src s = some (w, t)) : SameInputs t s := by
  rw [readWord_frame h]
  exact ⟨rfl, rfl, rfl⟩

theorem readWords_sameInputs (h : readWords src k s = some (ws, t)) : SameInputs t s := by
  induction k generalizing s ws with
  | zero =>
    cases h
    exact ⟨rfl, rfl, rfl⟩
  | succ k ih =>
    obtain ⟨w, s1, rest, h1, h2, rfl⟩ := readWords_succ_iff.1 h
    exact (ih h2).trans (readWord_sameInputs h1)

theorem seedSource_sameInputs (h : seedSource op seed s = some (w, t)) : SameInputs t s := by
  unfold seedSource at h
  split at h
  · cases seed with
    | some x =>
      cases h
      exact ⟨rfl, rfl, rfl⟩
    | none =>
      obtain ⟨⟨x, u⟩, hx, he⟩ := Option.map_eq_some_iff.1 h
      cases he
      rw [next32_frame hx]
      exact ⟨rfl, rfl, rfl⟩
  · cases h
    exact ⟨rfl, rfl, rfl⟩

/-! ### The function -/

/-- A count that is 0 or out of range ends in ACCEPT. -/
theorem runCommand_of_ends (h : n ≤ 0 ∨ nMax < n) (op : Op) (seed : Option Word64) (s : State) :
    runCommand op n seed s = some (accept op n seed s) ∧ stepCount op n seed = 1 := by
  unfold runCommand stepCount
  by_cases h0 : n ≤ 0
  · exact ⟨if_pos h0, if_pos h0⟩
  · have hbig : n > nMax := h.resolve_left h0
    exact ⟨(if_neg h0).trans (if_pos hbig), (if_neg h0).trans (if_pos hbig)⟩

/-- Any other count reads its words, and the state is the one a run from ACCEPT ends in. -/
theorem runCommand_eq_finished (hk0 : 0 < k) (hk : k ≤ 2147483647) (h : runCommand op k seed s = some t) :
    ∃ v s1 ws z, seedSource op seed s = some (v, s1) ∧
      readWords (srcSel op) (plannedWords op k) s1 = some (ws, z) ∧
      t = finished op ws s.out z { accept op k seed s with seed := v, seedDrawn := drawsSeed op seed } := by
  have h0 : ¬(k : Int) ≤ 0 := by omega
  have hmax : ¬(k : Int) > nMax := by simp only [nMax]; omega
  rw [runCommand, if_neg h0, if_neg hmax, Int.toNat_natCast, Option.bind_eq_some_iff] at h
  obtain ⟨⟨v, s1⟩, hseed, h⟩ := h
  obtain ⟨⟨ws, z⟩, hread, rfl⟩ := Option.map_eq_some_iff.1 h
  refine ⟨v, s1, ws, z, hseed, hread, ?_⟩
  have hn : (BitVec.ofInt 32 (k : Int)).toNat = k := toNat_ofNat_of_le hk
  obtain ⟨hport, hreset, hfree⟩ := (readWords_sameInputs hread).trans (seedSource_sameInputs hseed)
  rw [accept_of_legal hk]
  simp only [finished, hn, hport, hreset, hfree]
  rfl

/-- ACCEPT only carries the host's inputs along. -/
theorem accept_of_inputs (op : Op) (n : Int) (seed : Option Word64) (s : State) (p : List CmdRecord) (q : List Bool) :
    accept op n seed { s with cmdPort := p, resetIn := q } =
      { accept op n seed s with cmdPort := p, resetIn := q } := by
  unfold accept
  split_ifs <;> rfl

/-- R84 for a command that was presented: the run ends in the function's state, the record read. -/
theorem runsTo_of_runCommand (ha : s.phase.accepting = true) (hp : s.cmdPort = r :: rest)
    (hd : decodeCmd r = .instr (Instr.ofCommand op n seed)) (ht : seed.isSome = true → takesSeed op = true)
    (h : runCommand op n seed s = some t) :
    RunsTo (stepCount op n seed) s { t with cmdPort := rest } := by
  have hacc : accept op n seed { sampled s with cmdPort := rest } =
      { accept op n seed s with cmdPort := rest, resetIn := s.resetIn.tail } :=
    accept_of_inputs op n seed s rest s.resetIn.tail
  by_cases hends : n ≤ 0 ∨ nMax < n
  · obtain ⟨hrun, hcount⟩ := runCommand_of_ends hends op seed s
    obtain rfl : accept op n seed s = t := Option.some.inj (hrun.symm.trans h)
    have hrun := RunsTo.of_accept ha hp hd ht (.zero _)
    rw [hacc] at hrun
    rw [hcount]
    exact hrun
  · have hpos : 0 ≤ n := by omega
    obtain ⟨k, rfl⟩ := Int.eq_ofNat_of_zero_le hpos
    have hk0 : 0 < k := by omega
    have hk : k ≤ 2147483647 := by simp only [nMax] at hends; omega
    obtain ⟨v, s1, ws, z, hseed, hread, rfl⟩ := runCommand_eq_finished hk0 hk h
    have hrun := RunsTo.of_accept ha hp hd ht (runsTo_of_accept (s := s) hk0 hk ht ⟨rfl, rfl, rfl, rfl⟩ hseed hread)
    rw [hacc] at hrun
    rw [stepCount_of_pos hk0 hk]
    exact hrun

end RunFunction

/-- Settles O55: an illegal word's step is `acceptIllegal`; a legal command's run is `runsTo_of_runCommand`. -/
theorem runEqualsFunction : Obligations.RunEqualsFunction :=
  ⟨fun _ _ _ _ ha hp hr hd => ⟨_, step_of_illegal hr ha hp hd, rfl, rfl, rfl, rfl, rfl, rfl, rfl⟩,
    fun _ _ _ _ _ _ _ ha hp hd ht hr h => runsTo_of_runCommand ha hp hd ht h hr⟩

end Sys2Proof.Machine
end


section
/-! PROOFS. The errors (spec/60_exceptions.md): what a failed command leaves (R93 to R98), and that none arises after
ACCEPT. -/

namespace Sys2Proof.Machine

open Sys2Proof

section Exceptions

variable {op : Op} {s t : State} {r : CmdRecord} {rest : List CmdRecord}

/-! ### ACCEPT (R93, R96) -/

theorem firstPhase_ne_error (op : Op) (n : Int) (seed : Option Word64) : firstPhase op n seed ≠ .error := by
  obtain ⟨-, h⟩ | ⟨-, -, -, h⟩ | ⟨-, -, -, h⟩ | ⟨-, -, h⟩ := firstPhase_cases op n seed
  all_goals rw [h]; nofun

theorem accept_phase_eq_error_iff (op : Op) (n : Int) (seed : Option Word64) (s : State) :
    (accept op n seed s).phase = .error ↔ n < 0 ∨ nMax < n := by
  rw [accept_phase]
  split_ifs with hbad
  · exact iff_of_true rfl hbad
  · exact iff_of_false (firstPhase_ne_error op n seed) hbad

theorem accept_errcode (op : Op) (n : Int) (seed : Option Word64) (s : State) :
    (accept op n seed s).errcode = if n < 0 then .nNegative else if nMax < n then .nTooLarge else .none := by
  unfold accept
  split_ifs <;> rfl

/-- The step that reads a legal word is ACCEPT of the record's count. -/
theorem eq_accept_of_instr {i : Instr} (hr : resetNow s = false) (ha : s.phase.accepting = true)
    (hp : s.cmdPort = r :: rest) (hd : decodeCmd r = .instr i) (h : step s = .next t) :
    ∃ op seed, t = accept op r.nIn.toInt seed { sampled s with cmdPort := rest } := by
  obtain ⟨why, hd', -⟩ | ⟨op, seed, -, -, -, ht⟩ := step_presented_cases hr ha hp h
  · simp [hd] at hd'
  · exact ⟨op, seed, ht⟩

/-! ### No error after ACCEPT (R93, R96) -/

theorem busyStep_phase_ne_error (ha : s.phase.accepting = false) : (busyStep op s).phase ≠ .error := by
  cases hp : s.phase
  case seeddraw =>
    rw [busyStep_of_seeddraw hp, seedDrawStep_phase, hp]
    split_ifs <;> nofun
  case seedload =>
    rw [busyStep_of_seedload hp]
    nofun
  case fetch =>
    rw [busyStep_of_fetch hp, fetchStep_phase, hp]
    split_ifs <;> nofun
  case emit =>
    rw [busyStep_of_emit hp]
    show emitPhase op s ≠ _
    rw [emitPhase_eq]
    split_ifs <;> nofun
  all_goals simp [hp, Phase.accepting, Phase.busy] at ha

theorem step_busy_phase_ne_error (ha : s.phase.accepting = false) (h : step s = .next t) : t.phase ≠ .error := by
  obtain ⟨-, rfl⟩ | ⟨-, ha', -⟩ | ⟨-, -, op, -, rfl⟩ := step_cases h
  · nofun
  · exact absurd (ha.symm.trans ha') Bool.false_ne_true
  · exact busyStep_phase_ne_error (s := sampled s) ha

/-! ### The state after a failed command (R94, R95, R97) -/

/-- Why ACCEPT of a record fails, and the code it reports: a count out of range, or an illegal word (R93, R95). -/
inductive ErrorCause (r : CmdRecord) : ErrCode → Prop where
  | negative {i : Instr} : decodeCmd r = .instr i → r.nIn.toInt < 0 → ErrorCause r .nNegative
  | tooLarge {i : Instr} : decodeCmd r = .instr i → nMax < r.nIn.toInt → ErrorCause r .nTooLarge
  | illegal {why : DecodeError} : decodeCmd r = .illegal why → ErrorCause r .illegalCmd

theorem step_presented_error (hr : resetNow s = false) (ha : s.phase.accepting = true) (hp : s.cmdPort = r :: rest)
    (h : step s = .next t) (he : t.phase = .error) :
    ∃ code, ErrorCause r code ∧ t = raiseError code (latchCommand r.cw { sampled s with cmdPort := rest }) := by
  obtain ⟨why, hd, rfl⟩ | ⟨op, seed, hd, hcw, -, rfl⟩ := step_presented_cases hr ha hp h
  · exact ⟨_, .illegal hd, rfl⟩
  · rw [accept_phase_eq_error_iff] at he
    rw [hcw]
    obtain ⟨hneg, hacc⟩ | ⟨hbig, hacc⟩ | ⟨h0, hmax, -⟩ :=
      accept_cases op r.nIn.toInt seed { sampled s with cmdPort := rest }
    · exact ⟨_, .negative hd hneg, hacc⟩
    · exact ⟨_, .tooLarge hd hbig, hacc⟩
    · omega

/-- In ERROR every field of STATUS but ERRCODE is the same for all commands (R21, R97). -/
theorem status_raiseError_latchCommand (code : ErrCode) (cw : BitVec 8) (s : State) :
    (raiseError code (latchCommand cw s)).status = 0x0026 ||| code.code.setWidth 16 <<< 6 := by
  show 0#7 ++ 0#1 ++ code.code ++ 1#1 ++ 0#1 ++ 0#1 ++ 6#3 = _
  cases code <;> decide

end Exceptions

/-- Settles O13: ACCEPT's phase and code are functions of the count; a busy step keeps ERRCODE and never leads to
ERROR. -/
theorem invalidCountIsReported : Obligations.InvalidCountIsReported := by
  refine ⟨fun s t r rest i hr ha hp hd h => ?_, fun s t ha hr h => ⟨?_, step_busy_phase_ne_error ha h⟩⟩
  · obtain ⟨op, seed, rfl⟩ := eq_accept_of_instr hr ha hp hd h
    rw [Ne, accept_phase_eq_error_iff, accept_errcode, nMax]
    refine ⟨fun hneg => ⟨.inl hneg, ?_⟩, fun hbig => ⟨.inr hbig, ?_⟩, fun h0 hmax => ⟨?_, ?_⟩⟩
    · rw [if_pos hneg]
      rfl
    · have h0 : ¬r.nIn.toInt < 0 := by omega
      rw [if_neg h0, if_pos hbig]
      rfl
    · omega
    · rw [if_neg h0.not_gt, if_neg hmax.not_gt]
      rfl
  · obtain ⟨op, -, rfl⟩ := step_busy_cases hr ha h
    obtain ⟨-, -, -, hcode⟩ := busyStep_keeps_command (op := op) (s := sampled s) ha
    exact hcode

/-- Settles O14: the state is `raiseError` of the cause's code, whose STATUS is that code's. -/
theorem errorEntry : Obligations.ErrorEntry := by
  intro s t r rest hr ha hp h he
  obtain ⟨code, hcause, rfl⟩ := step_presented_error hr ha hp h he
  refine ⟨rfl, ?_⟩
  rw [status_raiseError_latchCommand, raiseError_errcode]
  cases hcause with
  | negative hd hneg => exact .inl ⟨⟨_, hd⟩, hneg, rfl, rfl⟩
  | tooLarge hd hbig => exact .inr (.inl ⟨⟨_, hd⟩, hbig, rfl, rfl⟩)
  | illegal hd => exact .inr (.inr ⟨⟨_, hd⟩, rfl, rfl⟩)

/-- Settles O15: an illegal word's step is `acceptIllegal`, a legal word's code a function of the count. -/
theorem checkOrder : Obligations.CheckOrder := by
  refine ⟨fun s t r rest hr ha hp h => ⟨?_, ?_⟩, fun s t => step_busy_phase_ne_error⟩
  · rintro ⟨why, hd⟩
    rw [step_of_illegal hr ha hp hd, Host.Outcome.next.injEq] at h
    rw [← h]
    rfl
  · rintro ⟨i, hd⟩
    obtain ⟨op, seed, rfl⟩ := eq_accept_of_instr hr ha hp hd h
    exact accept_errcode ..

/-- Settles O16: a step that ends in ERROR waits there or is a failed ACCEPT, which raises its error and no more. -/
theorem failedCommandLeavesNoTrace : Obligations.FailedCommandLeavesNoTrace := by
  intro s t h he
  obtain ⟨-, rfl⟩ | ⟨hr, ha, hacc⟩ | ⟨-, ha, -⟩ := step_cases h
  · cases he
  · obtain ⟨-, rfl⟩ | ⟨r, rest, hp, -⟩ := hacc
    · exact ⟨⟨rfl, rfl, rfl, rfl, rfl⟩, .inl rfl⟩
    · obtain ⟨code, -, rfl⟩ := step_presented_error hr ha hp h he
      exact ⟨⟨rfl, rfl, rfl, rfl, rfl⟩, .inr rfl⟩
  · exact absurd he (step_busy_phase_ne_error ha h)

end Sys2Proof.Machine
end

section
/-! PROOFS. RESET (spec/70_reset_and_hazards.md R107, R108), and that a busy block takes no command (R112). -/

namespace Sys2Proof.Machine

open Sys2Proof

/-- No row of R82's table leads from a busy phase to IDLE; only RESET does (R108). -/
theorem step_busy_phase_ne_idle {s t : State} (hr : resetNow s = false) (ha : s.phase.accepting = false)
    (h : step s = .next t) : t.phase ≠ .idle := by
  obtain ⟨op, ho, -⟩ := step_busy_cases hr ha h
  obtain ⟨-, -, -, hdraw, hload, hfetch, hemit⟩ := phaseTransitions s t h
  cases hp : s.phase
  case seeddraw =>
    rw [hdraw hr hp]
    split_ifs <;> nofun
  case seedload =>
    rw [hload hr hp]
    nofun
  case fetch =>
    rw [hfetch op hr hp ho]
    split_ifs <;> nofun
  case emit =>
    rw [hemit op hr hp ho]
    split_ifs <;> nofun
  all_goals simp [hp, Phase.accepting, Phase.busy] at ha

/-- BUSY says that ACCEPT is not enabled (R20, R74). -/
theorem accepting_of_busy {s : State} (hb : s.busy = true) : s.phase.accepting = false := congrArg not hb

/-- Settles O50: a turn with reset asserted is `resetStep`, whatever the phase; the rows of R82 do not lead to IDLE. -/
theorem resetFromAnyPhase : Obligations.ResetFromAnyPhase := by
  refine ⟨fun s rest h => ?_, fun s t => step_busy_phase_ne_idle⟩
  have hr : resetNow s = true := by simp [resetNow, h]
  obtain rfl : s.resetIn.tail = rest := by rw [h, List.tail_cons]
  exact ⟨_, step_of_reset hr, rfl, status_resetStep _⟩

/-- Settles O52: in a busy phase ACCEPT is not enabled, and no other step reads the command port. -/
theorem busyIgnoresCommandPort : Obligations.BusyIgnoresCommandPort := fun _ _ q hb h =>
  ⟨step_keeps_cmdPort (accepting_of_busy hb) h, step_of_cmdPort (accepting_of_busy hb) h q⟩

end Sys2Proof.Machine
end


section
/-! PROOFS. Decoding and encoding are inverse to each other (spec/30_encoding.md R43 to R48, R51 to R53, R55). -/

namespace Sys2Proof.Machine

open Sys2Proof

section Encoding

variable {op : Op} {n : Int} {seed : Option Word64}

/-- A count that fits N_IN is read back from it (R47). -/
theorem toInt_ofInt_of_countFits (h : countFits n = true) : (BitVec.ofInt 64 n).toInt = n := by
  simp only [countFits, Bool.and_eq_true, decide_eq_true_eq] at h
  obtain ⟨hlow, hhigh⟩ := h
  exact BitVec.toInt_ofInt_eq_self (by decide) hlow hhigh

theorem countFits_toInt (x : Word64) : countFits x.toInt = true := by
  simp only [countFits, Bool.and_eq_true, decide_eq_true_eq]
  exact ⟨BitVec.le_toInt x, BitVec.toInt_lt⟩

theorem wf_ofCommand (op : Op) (n : Int) (seed : Option Word64) : (Instr.ofCommand op n seed).wf = countFits n := by
  cases op <;> rfl

/-- The seed read back is the one written, SEEDV telling whether there is one (R48). -/
theorem ite_isSome_getD (seed : Option Word64) : (if seed.isSome then some (seed.getD 0) else none) = seed := by
  cases seed <;> rfl

theorem isSome_ite (v : Bool) (x : Word64) : (if v then some x else none).isSome = v := by
  cases v <;> rfl

theorem encode_ofCommand (hs : seed.isSome = true → takesSeed op = true) :
    encode (Instr.ofCommand op n seed) = encodeCmd op n seed := by
  cases op
  case bern64 => rfl
  case rade64 => rfl
  all_goals
    obtain rfl : seed = none := by simpa [takesSeed] using hs
    rfl

theorem decode_encode_ofCommand (hs : seed.isSome = true → takesSeed op = true) (hn : countFits n = true) :
    decode (encode (Instr.ofCommand op n seed)) = .instr (Instr.ofCommand op n seed) := by
  rw [encode_ofCommand hs, encodeCmd, decode, decodeCmd_cwOf _ _ hs, toInt_ofInt_of_countFits hn, ite_isSome_getD]

end Encoding

/-- Settles O3: a command by `decode_encode_ofCommand`; a word-port request's kind is its own. -/
theorem decodeOfEncode : Obligations.DecodeOfEncode := by
  intro i hwf
  cases i with
  | rbits n => exact decode_encode_ofCommand (op := .rbits) (seed := none) nofun hwf
  | bern n => exact decode_encode_ofCommand (op := .bern) (seed := none) nofun hwf
  | logi n => exact decode_encode_ofCommand (op := .logi) (seed := none) nofun hwf
  | rade n => exact decode_encode_ofCommand (op := .rade) (seed := none) nofun hwf
  | bern64 n seed => exact decode_encode_ofCommand (op := .bern64) (fun _ => rfl) hwf
  | rade64 n seed => exact decode_encode_ofCommand (op := .rade64) (fun _ => rfl) hwf
  | next32 => rfl
  | next64 => rfl
  | seed64 v => rfl

/-- Settles O4: a record that decodes is a legal word's, whose operation, count and seed the encoder writes back. -/
theorem encodeOfDecode : Obligations.EncodeOfDecode := by
  rintro (r | q) i hd
  · obtain ⟨op, ho, hres, hs, rfl⟩ := decodeCmd_instr hd
    refine ⟨(wf_ofCommand ..).trans (countFits_toInt _), ?_⟩
    rw [encode_ofCommand (by rwa [isSome_ite]), encodeCmd, isSome_ite]
    exact ⟨(cw_eq_cwOf hres ho).symm, BitVec.ofInt_toInt, fun hv => by simp [hv]⟩
  · simp only [decode, decodePort] at hd
    split_ifs at hd with h0 h1 h2 <;> cases hd
    · exact ⟨rfl, h0.symm, fun h2 => absurd (h0.symm.trans h2) (by decide)⟩
    · exact ⟨rfl, h1.symm, fun h2 => absurd (h1.symm.trans h2) (by decide)⟩
    · exact ⟨rfl, h2.symm, fun _ => rfl⟩

end Sys2Proof.Machine
end


section
/-! PROOFS. The steps that touch no agent of the block, and the invariants of the held word and the seeded stream
(spec/10_state.md R16, 40_word_sources.md R61, 42_sequencer.md R77), kept by every step. -/

namespace Sys2Proof.Machine

open Sys2Proof

section Invariants

variable {op : Op} {v : Bool} {seed : Option Word64} {s t : State}

/-! ### The steps of an accepting phase -/

theorem accept_outsideUnchanged (op : Op) (n : Int) (seed : Option Word64) (s : State) :
    outsideUnchanged s (accept op n seed s) := by
  obtain ⟨-, h⟩ | ⟨-, h⟩ | ⟨-, -, h⟩ := accept_cases op n seed s
  all_goals rw [h]; exact ⟨rfl, rfl, rfl, rfl, rfl⟩

theorem accept_op (op : Op) (n : Int) (seed : Option Word64) (s : State) : (accept op n seed s).op = some op := by
  obtain ⟨-, h⟩ | ⟨-, h⟩ | ⟨-, -, h⟩ := accept_cases op n seed s
  all_goals rw [h]; exact op_of_cwOp (cwOp_cwOf op _)

theorem firstPhase_ne_emit (op : Op) (n : Int) (seed : Option Word64) : firstPhase op n seed ≠ .emit := by
  obtain ⟨-, h⟩ | ⟨-, -, -, h⟩ | ⟨-, -, -, h⟩ | ⟨-, -, h⟩ := firstPhase_cases op n seed
  all_goals rw [h]; nofun

/-- A command that takes a seed is seeded before its first FETCH (R77, R82). -/
theorem firstPhase_ne_fetch_of_takesSeed (ht : takesSeed op = true) (n : Int) (seed : Option Word64) :
    firstPhase op n seed ≠ .fetch := by
  obtain ⟨-, h⟩ | ⟨-, -, -, h⟩ | ⟨-, -, -, h⟩ | ⟨-, hts, -⟩ := firstPhase_cases op n seed
  case inr.inr.inr => exact absurd (hts.symm.trans ht) Bool.false_ne_true
  all_goals rw [h]; nofun

theorem accept_phase_ne_emit (op : Op) (n : Int) (seed : Option Word64) (s : State) :
    (accept op n seed s).phase ≠ .emit := by
  rw [accept_phase]
  split_ifs
  · nofun
  · exact firstPhase_ne_emit op n seed

theorem accept_phase_ne_fetch_of_takesSeed (ht : takesSeed op = true) (n : Int) (seed : Option Word64) (s : State) :
    (accept op n seed s).phase ≠ .fetch := by
  rw [accept_phase]
  split_ifs
  · nofun
  · exact firstPhase_ne_fetch_of_takesSeed ht n seed

/-- A step either is a busy phase's own, or touches nothing outside the block and leads to a command's FETCH only if the
command takes no seed, and never to EMIT. -/
theorem step_busy_or_quiet (h : step s = .next t) :
    (s.phase.accepting = false ∧ ∃ op, s.op = some op ∧ t = busyStep op (sampled s)) ∨
    (outsideUnchanged s t ∧ (t.lastEvent = none ∨ t.lastEvent = some .commandRead) ∧ t.phase ≠ .emit ∧
      (t.op.map takesSeed = some true → t.phase ≠ .fetch)) := by
  obtain ⟨-, rfl⟩ | ⟨-, ha, hacc⟩ | ⟨-, ha, hbusy⟩ := step_cases h
  · exact .inr ⟨⟨rfl, rfl, rfl, rfl, rfl⟩, .inl rfl, nofun, nofun⟩
  · refine .inr ?_
    obtain ⟨-, rfl⟩ | ⟨r, rest, -, ⟨why, -, rfl⟩ | ⟨op, seed, -, -, -, rfl⟩⟩ := hacc
    · have hne {p : Phase} (hp : p.accepting = false) : s.phase ≠ p := fun he => by simp [he, hp] at ha
      exact ⟨⟨rfl, rfl, rfl, rfl, rfl⟩, .inl rfl, hne rfl, fun _ => hne rfl⟩
    · exact ⟨⟨rfl, rfl, rfl, rfl, rfl⟩, .inr rfl, nofun, nofun⟩
    · refine ⟨accept_outsideUnchanged .., .inr (accept_lastEvent ..), accept_phase_ne_emit _ _ _ _, fun hts => ?_⟩
      rw [accept_op] at hts
      exact accept_phase_ne_fetch_of_takesSeed (Option.some.inj hts) _ _ _
  · exact .inl ⟨ha, hbusy⟩

theorem srcSel_of_takesSeed (h : takesSeed op = true) : srcSel op = .src64 := by
  revert h
  cases op <;> decide

theorem busyStep_op (ha : s.phase.accepting = false) : (busyStep op s).op = s.op := by
  rw [State.op, (busyStep_keeps_command ha).1, State.op]

/-! ### The stream of a seeded command (R61, R77) -/

/-- What `seedStream` says of a command that takes a seed, reading the real SRC64. -/
structure StreamInv (s : State) : Prop where
  counter : s.phase = .fetch ∨ s.phase = .emit → s.g64 = s.seed + BitVec.ofNat 64 s.wordsDrawn.toNat * gamma
  word : s.phase = .emit → s.word = mix s.g64

theorem seedStream_iff : seedStream s ↔ (s.src64 = .mix → s.op.map takesSeed = some true → StreamInv s) :=
  ⟨fun h hm ht => ⟨(h hm ht).1, (h hm ht).2⟩, fun h hm ht => ⟨(h hm ht).counter, (h hm ht).word⟩⟩

theorem StreamInv.of_phase (hf : s.phase ≠ .fetch) (he : s.phase ≠ .emit) : StreamInv s :=
  ⟨fun h => absurd h (not_or_intro hf he), fun h => absurd h he⟩

theorem CommandInv.wordsDrawn_of_seedload (h : CommandInv op v s) (hp : s.phase = .seedload) : s.wordsDrawn = 0 := by
  have htab := h.table
  simp only [consumption, hp] at htab
  obtain ⟨-, -, -, -, hd, -⟩ := htab
  exact BitVec.eq_of_toNat_eq hd

/-- Only the real SRC64 is the real SRC64 afterwards. -/
theorem next64_src64_eq_mix {w : Word64} (h : next64 s = some (w, t)) (hm : t.src64 = .mix) : s.src64 = .mix := by
  unfold next64 at h
  split at h <;> cases h
  · assumption
  · exact hm
  · cases hm

theorem busyStep_src64_eq_mix (ha : s.phase.accepting = false) (hm : (busyStep op s).src64 = .mix) :
    s.src64 = .mix := by
  obtain ⟨-, -, h⟩ | ⟨-, -, _, _, _, -, h⟩ | ⟨-, h⟩ | ⟨-, -, -, h⟩ | ⟨-, -, -, h⟩ | ⟨-, -, -, _, _, _, -, h⟩ |
    ⟨-, -, -, _, _, _, hw, h⟩ | ⟨-, h⟩ := busyStep_cases (op := op) ha
  case inr.inr.inr.inr.inr.inr.inl => exact next64_src64_eq_mix hw (by rwa [h] at hm)
  all_goals rwa [h] at hm

theorem CommandInv.streamInv_of_fetch (h : CommandInv op v s) (hs : StreamInv s) (hp : s.phase = .fetch)
    (hsrc : srcSel op = .src64) (hm : s.src64 = .mix) : StreamInv (Machine.busyStep op s) := by
  rw [busyStep_of_answer hp (by rw [hsrc, readWord, next64_of_mix hm])]
  refine ⟨fun _ => ?_, fun _ => rfl⟩
  show s.g64 + gamma = s.seed + BitVec.ofNat 64 (s.wordsDrawn + 1).toNat * gamma
  rw [toNat_succ_of_lt (h.wordsDrawn_lt hp), ← add_gamma_add_mul_gamma, hs.counter (.inl hp), add_right_comm]

theorem CommandInv.streamInv_busyStep (h : CommandInv op v s) (hs : StreamInv s) (ha : s.phase.accepting = false)
    (hsrc : srcSel op = .src64) (hm : s.src64 = .mix) : StreamInv (Machine.busyStep op s) := by
  cases hp : s.phase
  case seeddraw =>
    have hph := seedDrawStep_phase s
    rw [busyStep_of_seeddraw hp]
    split_ifs at hph <;> exact .of_phase (by simp [hph, hp]) (by simp [hph, hp])
  case seedload =>
    rw [busyStep_of_seedload hp]
    refine ⟨fun _ => ?_, nofun⟩
    show s.seed = s.seed + BitVec.ofNat 64 s.wordsDrawn.toNat * gamma
    simp [h.wordsDrawn_of_seedload hp]
  case fetch => exact h.streamInv_of_fetch hs hp hsrc hm
  case emit =>
    rw [busyStep_of_emit hp]
    exact ⟨fun _ => hs.counter (.inr hp), fun _ => hs.word hp⟩
  all_goals simp [hp, Phase.accepting, Phase.busy] at ha

/-! ### The width of the held word (R16, R78) -/

theorem wordFits_busyStep (h : wordFits s) (ha : s.phase.accepting = false) (ho : s.op = some op) :
    wordFits (busyStep op s) := by
  intro op' ho'
  rw [busyStep_op ha] at ho'
  obtain rfl : op' = op := Option.some.inj (ho'.symm.trans ho)
  obtain ⟨hp, -, hb⟩ | ⟨hp, -, _, _, _, -, hb⟩ | ⟨hp, hb⟩ | ⟨hp, -, -, hb⟩ | ⟨hp, -, -, hb⟩ |
    ⟨-, hsrc, -, w, _, _, -, hb⟩ | ⟨-, hsrc, -, w, _, _, -, hb⟩ | ⟨hp, hb⟩ := busyStep_cases (op := op') ha
  case inr.inr.inr.inr.inr.inl =>
    intro _
    simp only [hb, wordWidth, hsrc]
    exact (BitVec.toNat_setWidth_of_le (by decide)).trans_lt w.isLt
  case inr.inr.inr.inr.inr.inr.inl =>
    intro _
    simp only [hb, wordWidth, hsrc]
    exact w.isLt
  case inr.inr.inr.inr.inr.inr.inr =>
    intro _
    rw [hb]
    exact h op' ho hp
  all_goals simp [hb, hp]

end Invariants

/-- Settles O29: outside a busy phase nothing reaches FETCH or EMIT; a busy phase's step keeps `StreamInv`. -/
theorem seededStreamKept : Obligations.SeededStreamKept := by
  intro s t hi hs h
  rw [seedStream_iff] at hs ⊢
  intro hm hts
  obtain ⟨ha, op, ho, rfl⟩ | ⟨-, -, he, hf⟩ := step_busy_or_quiet h
  · have hm := busyStep_src64_eq_mix (s := sampled s) ha hm
    rw [busyStep_op (s := sampled s) ha] at hts
    have hsrc : srcSel op = .src64 := srcSel_of_takesSeed (by simpa [show (sampled s).op = some op from ho] using hts)
    obtain ⟨v, hinv⟩ := CommandInv.of_wordInv hi ha ho
    have hs := hs hm hts
    exact hinv.sampled.streamInv_busyStep ⟨hs.counter, hs.word⟩ ha hsrc hm
  · exact .of_phase (hf hts) he

/-- Settles O30: a word is latched in FETCH, zero-extended from its source's width; EMIT keeps it. -/
theorem heldWordFitsItsSource : Obligations.HeldWordFitsItsSource := by
  intro s t hs h
  obtain ⟨ha, op, ho, rfl⟩ | ⟨-, -, he, -⟩ := step_busy_or_quiet h
  · exact wordFits_busyStep (s := sampled s) hs ha ho
  · exact fun _ _ hp => absurd hp he

/-- Settles O28: a step leaves OUT alone or writes one slot, which keeps the form. -/
theorem outputStaysCanonical : Obligations.OutputStaysCanonical := by
  intro s t hwf h
  obtain hout | ⟨-, v, hout⟩ := step_out_cases h
  · rwa [hout]
  · rw [hout]
    exact Memory.write_wf _ _ hwf

/-- Settles O27: the reset state is in IDLE, its counters are clear and its CFG is that of a seedless command. -/
theorem resetMeetsInvariants : Obligations.ResetMeetsInvariants :=
  ⟨⟨⟨rfl, rfl, rfl, rfl, rfl, rfl, rfl⟩, rfl, rfl⟩, slotsFilled_of_filled_zero rfl,
    seedStream_iff.2 fun _ _ => .of_phase nofun nofun, fun _ _ => nofun, State.reset_out_wf⟩

/-- Settles O21: SEEDLOAD's step is `seedLoadStep`; only busy phases lead a seeded command to FETCH, and SEEDDRAW goes
to SEEDLOAD. -/
theorem seedLoadStepSeedsSource : Obligations.SeedLoadStepSeedsSource := by
  refine ⟨fun op n seed s hp hc => ?_, fun s t h ht hts => ?_⟩
  · rw [exec_of_busy n seed (accepting_of_phase hp) hc, busyStep_of_seedload hp]
    rfl
  · obtain ⟨ha, op, -, rfl⟩ | ⟨-, -, -, hf⟩ := step_busy_or_quiet h
    · cases hp : s.phase
      case seeddraw =>
        rw [busyStep_of_seeddraw (s := sampled s) hp, seedDrawStep_phase, sampled_phase, hp] at ht
        split_ifs at ht
      case seedload => exact .inl rfl
      case fetch => exact .inr (.inr rfl)
      case emit => exact .inr (.inl rfl)
      all_goals simp [hp, Phase.accepting, Phase.busy] at ha
    · exact absurd ht (hf hts)

end Sys2Proof.Machine
end


section
/-! PROOFS. How a step runs an instruction (spec/42_sequencer.md R74): the command presented, the command that is
running, the transaction of a busy phase, the command word placed (logs 7, 8, 11, 15). -/

namespace Sys2Proof.Machine

open Sys2Proof

section StepRuns

variable {op : Op} {s u : State}

/-! ### The running command's transaction (R76 to R78) -/

theorem step_of_seeddraw {w : Word32} (hr : resetNow s = false) (ho : s.op = some op) (hp : s.phase = .seeddraw)
    (h : next32 (sampled s) = some (w, u)) :
    step s = .next { u with seed := w.setWidth 64, seedDrawn := true, phase := .seedload } := by
  rw [step_of_busy hr (accepting_of_phase hp) ho, busyStep_of_seeddraw (s := sampled s) hp, seedDrawStep, h]

theorem step_of_seedload (hr : resetNow s = false) (ho : s.op = some op) (hp : s.phase = .seedload) :
    step s = .next { seedWrite s.seed (sampled s) with phase := .fetch } := by
  rw [step_of_busy hr (accepting_of_phase hp) ho, busyStep_of_seedload (s := sampled s) hp]
  rfl

theorem step_of_fetch {w : Word64} (hr : resetNow s = false) (ho : s.op = some op) (hp : s.phase = .fetch)
    (h : readWord (srcSel op) (sampled s) = some (w, u)) :
    step s = .next { u with word := w, wordsDrawn := u.wordsDrawn + 1, j := 0, phase := .emit } := by
  rw [step_of_busy hr (accepting_of_phase hp) ho, busyStep_of_answer (s := sampled s) hp h]

/-! ### A command word placed (log 15) -/

theorem encodedOfNat_of_le {nbits : Nat} (h : 8 ≤ nbits) (w : Nat) : encodedOfNat nbits w = .cmd (recordOfNat w) :=
  if_neg (Nat.not_lt.2 h)

theorem decode_of_decodeTableWord {nbits w : Nat} {i : Instr} (h : decodeTableWord nbits w = some i) :
    decode (encodedOfNat nbits w) = .instr i := by
  unfold decodeTableWord at h
  split at h
  · next heq =>
    rw [heq, Option.some.inj h]
  · cases h

/-- A busy block is put in IDLE, so a placed record always meets an accepting phase. -/
theorem presentNow_accepting (r : CmdRecord) (s : State) : (presentNow r s).phase.accepting = true := by
  show (if s.phase.accepting then s.phase else .idle).accepting = true
  split_ifs with ha
  · exact ha
  · rfl

end StepRuns

/-- Settles O7: the turn of an accepting phase runs the record's instruction. -/
theorem stepRunsPresentedCommand : Obligations.StepRunsPresentedCommand := by
  intro s r rest i hr ha hp hd
  have hd : decodeCmd r = .instr i := hd
  simp only [step, turn, hr, Bool.false_eq_true, if_false, ha, if_true, acceptTurn, sampled_cmdPort, hp, hd]
  rfl

/-- Settles O8: both are the busy step of the operation CFG holds. -/
theorem stepRunsLatchedCommand : Obligations.StepRunsLatchedCommand := by
  intro s op hr ha ho
  rw [step_of_busy hr ha ho]
  exact (exec_of_busy (s := sampled s) _ _ ha (opCode_of_opOfCode ho)).symm

/-- Settles O9: the word a transaction reports is the source's answer, which the phase's step latches. -/
theorem stepRunsPortTransaction : Obligations.StepRunsPortTransaction := by
  refine fun s u op hr ho => ⟨fun w hp h he => step_of_seeddraw hr ho hp (next32_of_event h he), fun hp h => ?_,
    fun w hp hsrc h he => ?_, fun w hp hsrc h he => ?_⟩
  · obtain rfl : seedWrite s.seed (sampled s) = u := Host.Outcome.next.inj h
    exact step_of_seedload hr ho hp
  · have hread : readWord (srcSel op) (sampled s) = some (w.setWidth 64, u) := by
      have hw : next32 (sampled s) = some (w, u) := next32_of_event h he
      rw [hsrc, readWord, hw, Option.map_some]
    exact step_of_fetch hr ho hp hread
  · exact step_of_fetch hr ho hp (hsrc ▸ next64_of_event h he)

/-- Settles O10: the placed record is the one presented, in an accepting phase. -/
theorem placedCommandRunsNext : Obligations.PlacedCommandRunsNext := by
  intro s nbits w i hn hd
  have hd := decode_of_decodeTableWord hd
  rw [encodedOfNat_of_le hn] at hd
  rw [State.withFetchWord, encodedOfNat_of_le hn]
  exact stepRunsPresentedCommand _ _ s.cmdPort i rfl (presentNow_accepting _ s) rfl hd

/-- Settles O11: the block waits. -/
theorem waitingKeepsEverything : Obligations.WaitingKeepsEverything := fun _ hr ha hp => step_of_no_command hr ha hp

/-- Settles O57: a command that is neither accepted nor running waits. -/
theorem otherCommandHasNoEffectWhileBusy : Obligations.OtherCommandHasNoEffectWhileBusy := by
  intro op n seed s ha hc
  rw [exec_ofCommand, commandStep, if_neg (ne_true_of_eq_false ha), if_neg hc]
  rfl

/-- Settles O18: ACCEPT of a count of 0 sets nothing up and goes to DONE. -/
theorem zeroCountDrawsNothing : Obligations.ZeroCountDrawsNothing := by
  intro op seed s hs ha
  have hacc := accept_of_legal (op := op) (Nat.zero_le 2147483647) seed s
  rw [plannedWords_zero] at hacc
  refine ⟨_, exec_of_accepting 0 ha hs, ?_, ?_, ?_, ?_, accept_lastEvent .., accept_outsideUnchanged ..⟩
  all_goals exact hacc ▸ rfl

end Sys2Proof.Machine
end


section
/-! PROOFS. The word port (spec/30_encoding.md R51, 40_word_sources.md R56 to R64, 60_exceptions.md R100): what each
transaction changes, which steps make it, what it draws, and a request that is not answered. And the host's register
reads (10_state.md R22). -/

namespace Sys2Proof.Machine

open Sys2Proof

section WordPort

variable {op : Op} {s t : State}

/-! ### The transactions as instructions -/

theorem exec_next32_of_answer {w : Word32} (h : next32 s = some (w, t)) : exec .next32 s = .next t := by
  simp [exec, execNext32, h]

/-- A NEXT32 is answered, or the block waits. -/
theorem exec_next32_cases (h : exec .next32 s = .next t) : t = wait s ∨ ∃ w, next32 s = some (w, t) := by
  cases hn : next32 s with
  | none => exact .inl (by simpa [exec, execNext32, hn] using h.symm)
  | some a =>
    rw [exec_next32_of_answer hn, Host.Outcome.next.injEq] at h
    exact .inr ⟨a.1, by rw [← h]⟩

/-- A NEXT64 is answered, or the block waits. -/
theorem exec_next64_cases (h : exec .next64 s = .next t) : t = wait s ∨ ∃ w, next64 s = some (w, t) := by
  cases hn : next64 s with
  | none => exact .inl (by simpa [exec, execNext64, hn] using h.symm)
  | some a =>
    rw [exec_next64_of_answer hn, Host.Outcome.next.injEq] at h
    exact .inr ⟨a.1, by rw [← h]⟩

theorem exec_next32_frame (h : exec .next32 s = .next t) :
    t = { s with hg := t.hg, src32 := t.src32, lastEvent := t.lastEvent } := by
  obtain rfl | ⟨w, hw⟩ := exec_next32_cases h
  · rfl
  · rw [next32_frame hw]

theorem exec_next64_frame (h : exec .next64 s = .next t) :
    t = { s with g64 := t.g64, src64 := t.src64, lastEvent := t.lastEvent } := by
  obtain rfl | ⟨w, hw⟩ := exec_next64_cases h
  · rfl
  · rw [next64_frame hw]

/-! ### Which steps use the port (R51) -/

/-- The busy phases that make each transaction. -/
theorem busyStep_port_cases (ha : s.phase.accepting = false) :
    (∀ w, (busyStep op s).lastEvent = some (.next32 w) →
      s.phase = .seeddraw ∨ (s.phase = .fetch ∧ srcSel op = .src32)) ∧
    (∀ w, (busyStep op s).lastEvent = some (.next64 w) → s.phase = .fetch ∧ srcSel op = .src64) ∧
    (∀ v, (busyStep op s).lastEvent = some (.seed64 v) → s.phase = .seedload ∧ v = s.seed) := by
  obtain ⟨-, -, h⟩ | ⟨hp, -, _, _, _, -, h⟩ | ⟨hp, h⟩ | ⟨-, -, -, h⟩ | ⟨-, -, -, h⟩ | ⟨hp, hsrc, -, _, _, _, -, h⟩ |
    ⟨hp, hsrc, -, _, _, _, -, h⟩ | ⟨-, h⟩ := busyStep_cases (op := op) ha
  case inr.inl => simp [h, hp]
  case inr.inr.inl => simp [h, hp, eq_comm]
  case inr.inr.inr.inr.inr.inl => simp [h, hp, hsrc]
  case inr.inr.inr.inr.inr.inr.inl => simp [h, hp, hsrc]
  all_goals simp [h]

/-! ### The draws from UNIF (R24, R58) -/

theorem drawsOf_eq_zero {e : Option PortEvent} (he : ∀ w, e ≠ some (.next32 w)) (src : Source32) :
    drawsOf src e = 0 := by
  unfold drawsOf
  split
  · exact absurd rfl (he _)
  · rfl

theorem next32_drawn {w : Word32} (h : next32 s = some (w, t)) :
    t.hg.drawn = s.hg.drawn + drawsOf s.src32 (some (.next32 w)) := by
  unfold next32 at h
  split at h <;> cases h
  · next hs => rw [hs]; exact HostGen.nextWord_drawn s.hg
  · next hs => rw [hs]; rfl
  · next hs => rw [hs]; rfl

theorem busyStep_drawn (ha : s.phase.accepting = false) :
    (busyStep op s).hg.drawn = s.hg.drawn + drawsOf s.src32 (busyStep op s).lastEvent := by
  obtain ⟨-, -, h⟩ | ⟨-, -, _, _, _, hw, h⟩ | ⟨-, h⟩ | ⟨-, -, -, h⟩ | ⟨-, -, -, h⟩ | ⟨-, -, -, _, _, _, hw, h⟩ |
    ⟨-, -, -, _, _, _, -, h⟩ | ⟨-, h⟩ := busyStep_cases (op := op) ha
  case inr.inl => rw [h]; exact (next32_drawn hw :)
  case inr.inr.inr.inr.inr.inl => rw [h]; exact (next32_drawn hw :)
  all_goals rw [h, drawsOf_eq_zero (by simp)]; rfl

/-! ### A request that is not answered (R100, log 7) -/

/-- The phase asks a source for a word, and the source has no more. -/
def Unanswered (op : Op) (s : State) : Prop :=
  (s.phase = .seeddraw ∧ s.src32 = .words []) ∨
  (s.phase = .fetch ∧ srcSel op = .src32 ∧ s.src32 = .words []) ∨
  (s.phase = .fetch ∧ srcSel op = .src64 ∧ s.src64 = .words [])

theorem Unanswered.busy (h : Unanswered op s) : s.busy = true := by
  obtain ⟨hp, -⟩ | ⟨hp, -⟩ | ⟨hp, -⟩ := h
  all_goals rw [State.busy, hp]; rfl

theorem Unanswered.busyStep (h : Unanswered op s) : busyStep op s = wait s := by
  obtain ⟨hp, h32⟩ | ⟨hp, hsrc, h32⟩ | ⟨hp, hsrc, h64⟩ := h
  · rw [busyStep_of_seeddraw hp, seedDrawStep, (next32_none_iff s).2 h32]
  · rw [busyStep_of_fetch hp, fetchStep, (readWord_none_iff _ s).2 (.inl ⟨hsrc, h32⟩)]
  · rw [busyStep_of_fetch hp, fetchStep, (readWord_none_iff _ s).2 (.inr ⟨hsrc, h64⟩)]

theorem Unanswered.runsTo_succ {k : Nat} {u : State} (h : Unanswered op s) (ho : s.op = some op)
    (hk : RunsTo k (wait (sampled s)) u) : RunsTo (k + 1) s u :=
  .of_busyStep ho (accepting_of_busy h.busy) (by rwa [Unanswered.busyStep (s := sampled s) h])

/-- By induction on the number of turns: each waits, and the request stays unanswered. -/
theorem Unanswered.runsTo (h : Unanswered op s) (ho : s.op = some op) (k : Nat) : RunsTo (k + 1) s (wait s) := by
  induction k generalizing s with
  | zero => exact h.runsTo_succ ho (RunsTo.zero (wait (sampled s)))
  | succ k ih => exact h.runsTo_succ ho (ih (s := wait (sampled s)) h ho)

end WordPort

/-- Settles O5: the kinds decode by definition; a step that reports a transaction is the busy step that makes it. -/
theorem wordPortKinds : Obligations.WordPortKinds := by
  refine ⟨fun d => ⟨rfl, rfl, rfl, .reservedKind, rfl⟩, fun s t h => ?_⟩
  obtain ⟨ha, op, ho, rfl⟩ | ⟨-, hev, -, -⟩ := step_busy_or_quiet h
  · simpa [ho] using busyStep_port_cases (op := op) (s := sampled s) ha
  · obtain hev | hev := hev <;> simp [hev]

/-- Settles O17: no busy step raises an error; an unanswered request repeats itself; RESET leads to IDLE. -/
theorem unansweredRequestIsStuckNotFaulted : Obligations.UnansweredRequestIsStuckNotFaulted := by
  refine ⟨fun s t => step_busy_phase_ne_error, fun s op k ho hr h => ?_, fun s rest h => ?_⟩
  · exact ⟨Unanswered.runsTo h ho k hr, Unanswered.busy h⟩
  · exact ⟨_, step_of_reset (by simp [resetNow, h]), rfl⟩

/-- Settles O43: the answer is the attached word, which the transaction reports. -/
theorem testSourcesAnswer : Obligations.TestSourcesAnswer :=
  ⟨fun _ w h => exec_next32_of_answer (w := w) (by simp [next32, h]),
    fun _ w _ h => exec_next32_of_answer (w := w) (by simp [next32, h]),
    fun _ w h => exec_next64_of_answer (w := w) (by simp [next64, h]),
    fun _ w _ h => exec_next64_of_answer (w := w) (by simp [next64, h])⟩

/-- Settles O44: only an answered NEXT32 touches HG, and the real source's draws twice. -/
theorem drawsAreCounted : Obligations.DrawsAreCounted := by
  intro s t h
  obtain ⟨ha, op, -, rfl⟩ | ⟨⟨hhg, -⟩, hev, -, -⟩ := step_busy_or_quiet h
  · exact busyStep_drawn (s := sampled s) ha
  · rw [hhg, drawsOf_eq_zero (by obtain hev | hev := hev <;> simp [hev])]
    rfl

/-- Settles O45: the quotient by den is below 65536 because num is below den. -/
theorem halfWordIsFloor : Obligations.HalfWordIsFloor := by
  intro num den h
  have hpos : 0 < den := by omega
  have hlt : halfWord num den < 65536 := Nat.div_lt_of_lt_mul (Nat.mul_lt_mul_of_pos_right h (by decide))
  exact ⟨Nat.le_of_lt_succ hlt, Nat.div_mul_le_self .., Nat.lt_mul_of_div_lt (Nat.lt_succ_self _) hpos⟩

/-- Settles O54: each transaction is known up to its own source and its event. -/
theorem portTransactionFrame : Obligations.PortTransactionFrame := by
  rintro i s t (rfl | rfl | ⟨v, rfl⟩) h
  · rw [exec_next32_frame h]
    exact ⟨rfl, fun _ => rfl, fun _ => ⟨rfl, rfl⟩, fun hne => absurd rfl hne, fun _ => rfl⟩
  · rw [exec_next64_frame h]
    exact ⟨rfl, fun _ => rfl, nofun, fun _ => ⟨rfl, rfl⟩, fun hne => absurd rfl hne⟩
  · obtain rfl : seedWrite v s = t := Host.Outcome.next.inj h
    exact ⟨rfl, fun _ => rfl, nofun, fun _ => ⟨rfl, rfl⟩, fun _ => rfl⟩

/-- Settles O49: each number selects its register, and no test matches a number above 8. -/
theorem hostReadsByNumber : Obligations.HostReadsByNumber := by
  refine fun s => ⟨rfl, rfl, rfl, rfl, rfl, rfl, rfl, rfl, rfl, fun k hk => ?_⟩
  unfold hostRead
  iterate 9 rw [if_neg (by omega)]

end Sys2Proof.Machine
end


section
/-! PROOFS. A change of the state that a source does not see goes through its answer (spec/40_word_sources.md R58, R61).
-/

namespace Sys2Proof.Machine

open Sys2Proof

section Sources

variable {s : State} {u : State → State}

theorem next32_comm (hhg : (u s).hg = s.hg) (h32 : (u s).src32 = s.src32)
    (hu : ∀ g src w, u { s with hg := g, src32 := src, lastEvent := some (.next32 w) } =
      { u s with hg := g, src32 := src, lastEvent := some (.next32 w) }) :
    next32 (u s) = (next32 s).map fun a => (a.1, u a.2) := by
  unfold next32
  rw [h32, hhg]
  split <;> simp only [Option.map_some, Option.map_none, hu, ← h32, ← hhg]

theorem next64_comm (hg : (u s).g64 = s.g64) (h64 : (u s).src64 = s.src64)
    (hu : ∀ g src w, u { s with g64 := g, src64 := src, lastEvent := some (.next64 w) } =
      { u s with g64 := g, src64 := src, lastEvent := some (.next64 w) }) :
    next64 (u s) = (next64 s).map fun a => (a.1, u a.2) := by
  unfold next64
  rw [h64, hg]
  split <;> simp only [Option.map_some, Option.map_none, hu, ← h64, ← hg]

end Sources

end Sys2Proof.Machine
end


section
/-! PROOFS. Two operations with the same constants but for their slots take the same steps (spec/43_commands.md R89,
R90), and the order in which a 32-bit word's bits come out (20_memory.md R34, 30_encoding.md R49). -/

namespace Sys2Proof.Machine

open Sys2Proof

section Retyped

variable {f : Slot → Slot} {op op' : Op} {cw : BitVec 8}

/-- A slot write goes through a map of the slots. -/
theorem Memory.map_write (f : Slot → Slot) (m : Memory) (a : Nat) (v : Slot) :
    (m.write a v).map (fun c => (c.1, f c.2)) = Memory.write (m.map fun c => (c.1, f c.2)) a (f v) := by
  induction m with
  | nil => rfl
  | cons c rest ih =>
    simp only [Memory.write, List.map_cons]
    split_ifs
    · rfl
    · rfl
    · rw [List.map_cons, ih]

/-! ### The sources do not see CFG, OUT or the last transaction -/

theorem next32_retyped (f : Slot → Slot) (cw : BitVec 8) (s : State) :
    next32 (retyped f cw s) = (next32 s).map fun a => (a.1, retyped f cw a.2) :=
  next32_comm rfl rfl fun _ _ _ => rfl

theorem next64_retyped (f : Slot → Slot) (cw : BitVec 8) (s : State) :
    next64 (retyped f cw s) = (next64 s).map fun a => (a.1, retyped f cw a.2) :=
  next64_comm rfl rfl fun _ _ _ => rfl

theorem readWord_retyped (f : Slot → Slot) (cw : BitVec 8) (src : SrcSel) (s : State) :
    readWord src (retyped f cw s) = (readWord src s).map fun a => (a.1, retyped f cw a.2) := by
  cases src with
  | src32 =>
    simp only [readWord, next32_retyped]
    cases next32 s <;> rfl
  | src64 => exact next64_retyped f cw s

theorem seedDrawStep_retyped (f : Slot → Slot) (cw : BitVec 8) (s : State) :
    seedDrawStep (retyped f cw s) = retyped f cw (seedDrawStep s) := by
  simp only [seedDrawStep, next32_retyped]
  cases next32 s <;> rfl

/-! ### The steps of an operation that differs in its slots alone -/

/-- `op'` has the constants of `op` (R46), and writes the slots of `op` passed through `f`. -/
structure SlotsThrough (f : Slot → Slot) (op op' : Op) : Prop where
  raw : isRaw op' = isRaw op
  bits : usableBits op' = usableBits op
  src : srcSel op' = srcSel op
  seed : takesSeed op' = takesSeed op
  slot (w : Word64) (j : Nat) : slotOf op' w j = f (slotOf op w j)

theorem SlotsThrough.accept_retyped (h : SlotsThrough f op op') (n : Int) (s : State) :
    accept op' n none (retyped f cw s) = retyped f (cwOf op' false) (accept op n none s) := by
  have hwords : plannedWords op' n.toNat = plannedWords op n.toNat := by
    rw [plannedWords, h.raw, h.bits, plannedWords]
  have hphase : firstPhase op' n none = firstPhase op n none := by
    rw [firstPhase, h.seed, firstPhase]
  simp only [accept, hwords, hphase]
  split_ifs <;> rfl

theorem SlotsThrough.fetchStep_retyped (h : SlotsThrough f op op') (s : State) :
    fetchStep op' (retyped f cw s) = retyped f cw (fetchStep op s) := by
  simp only [fetchStep, h.src, readWord_retyped]
  cases readWord (srcSel op) s <;> rfl

theorem SlotsThrough.emitStep_retyped (h : SlotsThrough f op op') (s : State) :
    emitStep op' (retyped f cw s) = retyped f cw (emitStep op s) := by
  have hphase : emitPhase op' (retyped f cw s) = emitPhase op s := by
    rw [emitPhase, h.raw, h.bits]
    rfl
  simp only [emitStep, hphase, h.raw]
  simp only [retyped, slotWrite, h.slot, Memory.map_write, mapEvent]

theorem SlotsThrough.busyStep_retyped (h : SlotsThrough f op op') (s : State) :
    busyStep op' (retyped f cw s) = retyped f cw (busyStep op s) := by
  have hphase : (retyped f cw s).phase = s.phase := rfl
  rw [busyStep, hphase, busyStep]
  split
  · exact seedDrawStep_retyped f cw s
  · rfl
  · exact h.fetchStep_retyped s
  · exact h.emitStep_retyped s
  all_goals rfl

/-- R89, R90: the step of `op'` at the state retyped is the step of `op`, retyped. -/
theorem SlotsThrough.commandStep_retyped (h : SlotsThrough f op op') {s : State} (n : Int)
    (hs : s.phase.accepting = true ∨ s.cfg = cwOf op false) :
    commandStep op' n none (retyped f (cwOf op' false) s) = retyped f (cwOf op' false) (commandStep op n none s) := by
  cases ha : s.phase.accepting with
  | true =>
    have ha' : (retyped f (cwOf op' false) s).phase.accepting = true := ha
    rw [commandStep, if_pos ha', commandStep, if_pos ha, h.accept_retyped]
  | false =>
    have hcfg : s.cfg = cwOf op false := hs.resolve_left (ne_true_of_eq_false ha)
    have ho : s.op = some op := op_of_cwOp (by rw [hcfg, cwOp_cwOf])
    have ho' : (retyped f (cwOf op' false) s).op = some op' := op_of_cwOp (cwOp_cwOf op' false)
    rw [commandStep_busy n none ha ho, commandStep_busy (s := retyped f _ s) n none ha ho', h.busyStep_retyped]

theorem slotsThrough_asLogi : SlotsThrough asLogi .bern .logi := ⟨rfl, rfl, rfl, rfl, fun _ _ => rfl⟩

/-- RADE's two values are twice BERN's less one (R67, R68). -/
theorem slotsThrough_asRade : SlotsThrough asRade .bern .rade := by
  refine ⟨rfl, rfl, rfl, rfl, fun w j => ?_⟩
  rw [slotOf_of_not_raw rfl, slotOf_of_not_raw rfl]
  cases w.getLsbD j <;> rfl

/-! ### The bits of a 32-bit word (R34, R49) -/

/-- Bit j of high * 65536 + low is one of low's for j < 16, and one of high's after. -/
theorem unpackBit_wordOfHalves (high low : BitVec 16) (j : Nat) :
    unpackBit (wordOfHalves high low).toNat j =
      if j < 16 then low.toNat / 2 ^ j % 2 else high.toNat / 2 ^ (j - 16) % 2 := by
  rw [unpackBit, wordOfHalves_toNat, ← Nat.toNat_testBit, ← Nat.toNat_testBit, ← Nat.toNat_testBit, Nat.mul_comm,
    show 65536 = 2 ^ 16 from rfl, Nat.testBit_two_pow_mul_add _ low.isLt]
  split_ifs <;> rfl

end Retyped

/-- Settles O35: LOGI's slots are BERN's tagged boolean. -/
theorem logiIsBernRetyped : Obligations.LogiIsBernRetyped := by
  intro n s t hs h
  rw [← Host.Outcome.next.inj h]
  exact congrArg _ (slotsThrough_asLogi.commandStep_retyped n hs)

/-- Settles O36: RADE's slots are twice BERN's less one. -/
theorem radeIsTwiceBernLessOne : Obligations.RadeIsTwiceBernLessOne := by
  intro n s t hs h
  rw [← Host.Outcome.next.inj h]
  exact congrArg _ (slotsThrough_asRade.commandStep_retyped n hs)

/-- Settles O37: the slot is bit J of the word, and the low half holds the word's low 16 bits. -/
theorem lowHalfIsUnpackedFirst : Obligations.LowHalfIsUnpackedFirst := by
  intro high low n s hp hcfg _ hw
  have hc : cwOp s.cfg = opCode .bern := by rw [hcfg, cwOp_cwOf]
  refine ⟨_, _, exec_of_emit (op := .bern) n none hp hc, Memory.read_write_same .., ?_⟩
  rw [← unpackBit_wordOfHalves, hw]
  show BitVec.ofInt 32 _ = _
  rw [BitVec.toNat_setWidth_of_le (by decide), mapBern, BitVec.ofInt_natCast]

end Sys2Proof.Machine
end


section
/-! PROOFS. What the steps do not read and do not touch: ACCEPT and the registers an earlier command left
(spec/10_state.md R8), a seeded command and UNIF (40_word_sources.md R63), and the frame of a command's step
(42_sequencer.md R75 to R80). -/

namespace Sys2Proof.Machine

open Sys2Proof

section Noninterference

variable {op : Op} {v : Bool} {s t : State} {w : Word64}

/-! ### WORD is read in EMIT alone (R8) -/

theorem accept_of_word (op : Op) (n : Int) (seed : Option Word64) (s : State) (w : Word64) :
    accept op n seed { s with word := w } = { accept op n seed s with word := w } := by
  unfold accept
  split_ifs <;> rfl

/-- The registers of `b` but the sources, OUT and the host's inputs of `s`. -/
def withRegisters (b s : State) : State :=
  { s with
    phase := b.phase, cfg := b.cfg, n := b.n, numWords := b.numWords, wordsDrawn := b.wordsDrawn, filled := b.filled,
    j := b.j, word := b.word, seed := b.seed, seedDrawn := b.seedDrawn, errcode := b.errcode }

/-- ACCEPT writes every register of the block but WORD, and reads none. -/
theorem accept_withRegisters (op : Op) (n : Int) (seed : Option Word64) (b s : State) :
    accept op n seed (withRegisters b s) = { accept op n seed s with word := b.word } := by
  unfold accept
  split_ifs <;> rfl

theorem exec_ofCommand_of_accepting (op : Op) (n : Int) (seed : Option Word64) (ha : s.phase.accepting = true) :
    exec (Instr.ofCommand op n seed) s = .next (accept op n (if takesSeed op then seed else none) s) := by
  rw [exec_ofCommand, commandStep, if_pos ha]

theorem seedDrawStep_of_word (s : State) (w : Word64) :
    seedDrawStep { s with word := w } = { seedDrawStep s with word := w } := by
  have hnext := next32_comm (s := s) (u := fun s => { s with word := w }) rfl rfl fun _ _ _ => rfl
  simp only [seedDrawStep, hnext]
  cases next32 s <;> rfl

theorem readWord_of_word (src : SrcSel) (s : State) (w : Word64) :
    readWord src { s with word := w } = (readWord src s).map fun a => (a.1, { a.2 with word := w }) := by
  cases src with
  | src32 =>
    have hnext := next32_comm (s := s) (u := fun s => { s with word := w }) rfl rfl fun _ _ _ => rfl
    simp only [readWord, hnext]
    cases next32 s <;> rfl
  | src64 => exact next64_comm (u := fun s => { s with word := w }) rfl rfl fun _ _ _ => rfl

/-- FETCH overwrites WORD, or waits. -/
theorem fetchStep_of_word (op : Op) (s : State) (w : Word64) :
    fetchStep op { s with word := w } = fetchStep op s ∨
      fetchStep op { s with word := w } = { fetchStep op s with word := w } := by
  simp only [fetchStep, readWord_of_word]
  cases readWord (srcSel op) s with
  | none => exact .inr rfl
  | some a => exact .inl rfl

theorem busyStep_of_word (hp : s.phase ≠ .emit) (op : Op) (w : Word64) :
    busyStep op { s with word := w } = busyStep op s ∨
      busyStep op { s with word := w } = { busyStep op s with word := w } := by
  unfold busyStep
  dsimp only
  split
  · exact .inr (seedDrawStep_of_word s w)
  · exact .inr rfl
  · exact fetchStep_of_word op s w
  · contradiction
  all_goals exact .inr rfl

theorem step_of_word (hp : s.phase ≠ .emit) (h : step s = .next t) (w : Word64) :
    step { s with word := w } = .next t ∨ step { s with word := w } = .next { t with word := w } := by
  obtain ⟨hr, rfl⟩ | ⟨hr, ha, hacc⟩ | ⟨hr, ha, op, ho, rfl⟩ := step_cases h
  · exact .inl (step_of_reset (s := { s with word := w }) hr)
  · obtain ⟨hport, rfl⟩ | ⟨r, rest, hport, ⟨why, hd, rfl⟩ | ⟨op, seed, hd, -, hs, rfl⟩⟩ := hacc
    · exact .inr (step_of_no_command (s := { s with word := w }) hr ha hport)
    · exact .inr (step_of_illegal (s := { s with word := w }) hr ha hport hd)
    · rw [step_of_presented (s := { s with word := w }) hr ha hport hd fun hv => (hs hv).1]
      exact .inr (congrArg _ (accept_of_word _ _ _ { sampled s with cmdPort := rest } w))
  · rw [step_of_busy (s := { s with word := w }) hr ha ho]
    exact (busyStep_of_word (s := sampled s) hp op w).imp (congrArg _) (congrArg _)

/-! ### A seeded command and UNIF (R63) -/

/-- The seed was given, so SEEDDRAW is not one of the command's phases. -/
theorem CommandInv.phase_ne_seeddraw (h : CommandInv op true s) : s.phase ≠ .seeddraw := by
  intro hp
  have htab := h.table
  simp only [consumption, hp, h.cfg, cwSeedv_cwOf] at htab
  obtain ⟨-, hv, -⟩ := htab
  cases hv

theorem fetchStep_of_src32 (hsrc : srcSel op = .src64) (s : State) (g : HostGen) (src : Source32) :
    fetchStep op { s with hg := g, src32 := src } = { fetchStep op s with hg := g, src32 := src } := by
  have hnext := next64_comm (s := s) (u := fun s => { s with hg := g, src32 := src }) rfl rfl fun _ _ _ => rfl
  simp only [fetchStep, hsrc, readWord, hnext]
  cases next64 s <;> rfl

theorem busyStep_of_src32 (hsrc : srcSel op = .src64) (hp : s.phase ≠ .seeddraw) (g : HostGen) (src : Source32) :
    busyStep op { s with hg := g, src32 := src } = { busyStep op s with hg := g, src32 := src } := by
  unfold busyStep
  dsimp only
  split
  · contradiction
  · rfl
  · exact fetchStep_of_src32 hsrc s g src
  all_goals rfl

theorem busyStep_keeps_src32 (ha : s.phase.accepting = false) (hsd : s.phase ≠ .seeddraw)
    (hf : s.phase = .fetch → srcSel op = .src64) :
    (busyStep op s).hg = s.hg ∧ (busyStep op s).src32 = s.src32 := by
  obtain ⟨hp, -⟩ | ⟨hp, -⟩ | ⟨-, h⟩ | ⟨-, -, -, h⟩ | ⟨-, -, -, h⟩ | ⟨hp, hsrc, -⟩ |
    ⟨-, -, -, _, _, _, -, h⟩ | ⟨-, h⟩ := busyStep_cases (op := op) ha
  case inl => exact absurd hp hsd
  case inr.inl => exact absurd hp hsd
  case inr.inr.inr.inr.inr.inl => simp [hf hp] at hsrc
  all_goals rw [h]; exact ⟨rfl, rfl⟩

/-! ### The frame of ACCEPT (R75) -/

theorem accept_keeps_host (op : Op) (n : Int) (seed : Option Word64) (s : State) :
    (accept op n seed s).cmdPort = s.cmdPort ∧ (accept op n seed s).resetIn = s.resetIn ∧
      (accept op n seed s).freeIx = s.freeIx ∧ (accept op n seed s).word = s.word := by
  obtain ⟨-, h⟩ | ⟨-, h⟩ | ⟨-, -, h⟩ := accept_cases op n seed s
  all_goals rw [h]; exact ⟨rfl, rfl, rfl, rfl⟩

end Noninterference

/-- Settles O19: ACCEPT writes what it does not keep; of the other steps only EMIT makes a slot of WORD. -/
theorem noStateAcrossCommands : Obligations.NoStateAcrossCommands := by
  refine ⟨fun s b i op n seed hi ha hb => ?_, fun s t w hp h => step_of_word hp h w⟩
  subst hi
  exact ⟨_, exec_ofCommand_of_accepting op n seed ha,
    (exec_ofCommand_of_accepting (s := withRegisters b s) op n seed hb).trans (congrArg _ (accept_withRegisters ..))⟩

/-- Settles O46: such a command runs in SEEDLOAD, FETCH from SRC64 and EMIT, none of which uses the 32-bit source. -/
theorem seededCommandIgnoresHostGenerator : Obligations.SeededCommandIgnoresHostGenerator := by
  intro s t g src op hts hcfg hi ha h
  have hsrc := srcSel_of_takesSeed hts
  have ho : s.op = some op := op_of_cwOp (by rw [hcfg, cwOp_cwOf])
  obtain ⟨v, hinv⟩ := CommandInv.of_wordInv hi ha ho
  obtain rfl : v = true := by simpa using congrArg cwSeedv (hinv.cfg.symm.trans hcfg)
  have hsd := hinv.phase_ne_seeddraw
  obtain ⟨hr, rfl⟩ | ⟨-, ha', -⟩ | ⟨hr, -, op', ho', rfl⟩ := step_cases h
  · exact ⟨rfl, rfl, step_of_reset (s := { s with hg := g, src32 := src }) hr⟩
  · exact absurd (ha.symm.trans ha') Bool.false_ne_true
  · obtain rfl : op' = op := Option.some.inj (ho'.symm.trans ho)
    obtain ⟨hhg, h32⟩ := busyStep_keeps_src32 (s := sampled s) ha hsd fun _ => hsrc
    refine ⟨hhg, h32, ?_⟩
    rw [step_of_busy (s := { s with hg := g, src32 := src }) hr ha ho]
    exact congrArg _ (busyStep_of_src32 (s := sampled s) hsrc hsd g src)

/-- Settles O53: a step is ACCEPT, a busy phase's own, which `busyStep_cases` writes out, or waiting. -/
theorem commandFrame : Obligations.CommandFrame := by
  intro op n seed s t h
  rw [exec_ofCommand, Host.Outcome.next.injEq] at h
  subst h
  generalize (if takesSeed op then seed else none) = seed
  cases ha : s.phase.accepting with
  | true =>
    rw [commandStep, if_pos ha]
    obtain ⟨hport, hreset, hfree, hword⟩ := accept_keeps_host op n seed s
    obtain ⟨hhg, hg64, h32, h64, hout⟩ := accept_outsideUnchanged op n seed s
    have hload : s.phase ≠ .seedload := fun hp => by simp [hp, Phase.accepting, Phase.busy] at ha
    simp [hport, hreset, hfree, hword, hhg, hg64, h32, h64, hout, hload]
  | false =>
    by_cases hc : cwOp s.cfg = opCode op
    · rw [commandStep_busy n seed ha (op_of_cwOp hc)]
      obtain ⟨hp, -, h⟩ | ⟨hp, -, _, _, _, -, h⟩ | ⟨hp, h⟩ | ⟨hp, -, -, h⟩ | ⟨hp, -, -, h⟩ |
        ⟨hp, hsrc, -, _, _, _, -, h⟩ | ⟨hp, hsrc, -, _, _, _, -, h⟩ | ⟨hp, h⟩ := busyStep_cases (op := op) ha
      case inr.inr.inr.inr.inr.inl => simp [h, hp, hsrc]
      case inr.inr.inr.inr.inr.inr.inl => simp [h, hp, hsrc]
      case inr.inr.inr.inr.inr.inr.inr => simp +contextual [h, hp, emitStep]
      all_goals simp [h, hp, hc]
    · rw [commandStep, if_neg (ne_true_of_eq_false ha), if_neg hc]
      simp [hc]

end Sys2Proof.Machine
end
